-- ==== Sys2Proof/Word.lean ====
section
/-! DEFINITION. The word types of the block: one byte of the frame and the 32-bit frame word. -/

namespace Sys2Proof

/-- One byte of the frame, bit 7 its most significant bit (R9). -/
abbrev Byte := BitVec 8

/-- The frame word W[31:0] (R9), the width of the `frame` port (R29). -/
abbrev Word := BitVec 32

end Sys2Proof
end

