-- ==== Sys2Proof/Config.lean ====
section
/-! DEFINITION. What the spec leaves open (R8): constants and free values without a body, so that no proof can see their value. -/

namespace Sys2Proof

/-- TS_W, the width in bits of `now` and `timestamp` (R8, R29, R30): OPEN (D8), so it is a constant without a value and every
statement holds whatever it is (log 3). -/
opaque Config.tsW : Nat

/-- A value of `now` or `timestamp`: TS_W bits (R29, R30), opaque to the block (R82). -/
abbrev Timestamp := BitVec Config.tsW

/-- DECODE_LATENCY (R8, R207): OPEN (D15). "No rule of this spec and no rule of the model depends on its value", and no
definition of the model reads it. -/
opaque Config.decodeLatency : Nat

/-- FREE VALUE: the timestamp of the k-th stimulus written without `@ T`, "an arbitrary opaque value" (R83) of TS_W bits. Log 4. -/
opaque Config.omittedNow : Nat → Timestamp

end Sys2Proof
end

