-- ==== Sys2Proof/Syntax.lean ====
section
/-! DEFINITION. The abstract syntax: the fields of a FRAME32 frame (R71), the nine operations of the opcode table, and the
host's stimuli (R83). -/

namespace Sys2Proof

/-- The eight fields of the one input format FRAME32 (R70, R71), named and sized as R71 does. -/
structure Frame where
  /-- W[31], OpenCircuit cause bit. -/
  oc : Bool
  /-- W[30], ShortToGround cause bit. -/
  scg : Bool
  /-- W[29], ShortToPower cause bit. -/
  scv : Bool
  /-- W[28], reserved, ignored (R76). -/
  rsv : Bool
  /-- W[27:16], internal-temperature field. -/
  intWord : BitVec 12
  /-- W[15], FAULT summary flag. -/
  faultFlag : Bool
  /-- W[14:1], thermocouple-temperature field (90_conflicts.md C2). -/
  tcWord : BitVec 14
  /-- W[0], repeated SCV, not read (R77). -/
  scvRep : Bool
deriving DecidableEq, Repr

/-- The operations of opcode_table.json, one constructor per row. A row's operand is the whole frame, since the table gives
every row all eight fields. The rows are the operations one frame passes through, not separate encodings (R79, log 1). -/
inductive Instr where
  /-- DECODE: "Every frame is a DECODE" (R150). -/
  | decode (f : Frame)
  /-- CLASSIFY (R100). -/
  | classify (f : Frame)
  /-- CLASSIFY.NONE (R101). -/
  | classifyNone (f : Frame)
  /-- CLASSIFY.OC (R102). -/
  | classifyOc (f : Frame)
  /-- CLASSIFY.SCG (R103). -/
  | classifyScg (f : Frame)
  /-- CLASSIFY.SCV (R104). -/
  | classifyScv (f : Frame)
  /-- CLASSIFY.UNKNOWN (R105). -/
  | classifyUnknown (f : Frame)
  /-- EXTRACT_INT (R122). -/
  | extractInt (f : Frame)
  /-- EXTRACT_TC (R123). -/
  | extractTc (f : Frame)
deriving DecidableEq, Repr

/-- The frame an operation is applied to. -/
def Instr.frame : Instr → Frame
  | .decode f => f
  | .classify f => f
  | .classifyNone f => f
  | .classifyOc f => f
  | .classifyScg f => f
  | .classifyScv f => f
  | .classifyUnknown f => f
  | .extractInt f => f
  | .extractTc f => f

/-- The two spellings of a stimulus's frame (R83). -/
inductive StimulusFrame where
  /-- `decode [b0, b1, b2, b3]`: bytes in wire order, of any length, since a byte sequence is where R37's length check stands. -/
  | bytes (bs : List Byte)
  /-- `decode W=0xHHHHHHHH`. -/
  | word (w : Word)
deriving DecidableEq, Repr

/-- One line of a stimulus program (R83): `u<unit>: decode <frame> @ <at>`. -/
structure Stimulus where
  /-- The instance it is presented to (`u0:`, `u1:`). -/
  unit : Nat
  frame : StimulusFrame
  /-- The timestamp after `@`, a value of the TS_W-bit port it is presented on (R29), or none where the line leaves it out. -/
  now : Option Timestamp
deriving DecidableEq, Repr

end Sys2Proof
end

