-- ==== Sys2Proof/WellFormed.lean ====
section
/-! DEFINITION. Which terms of the syntax are well formed: a CLASSIFY.* case row needs the bits the table fixes for it (R79),
and a stimulus's byte list is exactly four bytes (R37). -/

namespace Sys2Proof

/-- FAULT flag clear: the fixed bits of CLASSIFY.NONE (R79, R101). -/
def Frame.isNone (f : Frame) : Bool := !f.faultFlag

/-- The fixed bits of CLASSIFY.OC (R79, R102). -/
def Frame.isOc (f : Frame) : Bool := f.faultFlag && f.oc

/-- The fixed bits of CLASSIFY.SCG (R79, R103). -/
def Frame.isScg (f : Frame) : Bool := f.faultFlag && !f.oc && f.scg

/-- The fixed bits of CLASSIFY.SCV (R79, R104). -/
def Frame.isScv (f : Frame) : Bool := f.faultFlag && !f.oc && !f.scg && f.scv

/-- The fixed bits of CLASSIFY.UNKNOWN (R79, R105). -/
def Frame.isUnknown (f : Frame) : Bool := f.faultFlag && !f.oc && !f.scg && !f.scv

/-- An operation is well formed when its frame has the bits its row of the table fixes; the mask-0 rows fix none. -/
def Instr.wellFormed : Instr → Bool
  | .decode _ => true
  | .classify _ => true
  | .classifyNone f => f.isNone
  | .classifyOc f => f.isOc
  | .classifyScg f => f.isScg
  | .classifyScv f => f.isScv
  | .classifyUnknown f => f.isUnknown
  | .extractInt _ => true
  | .extractTc _ => true

/-- A stimulus is well formed when its frame is "exactly 4 bytes" (R36, R37). -/
def Stimulus.wellFormed (x : Stimulus) : Bool :=
  match x.frame with
  | .bytes bs => bs.length == 4
  | .word _ => true

end Sys2Proof
end

