-- ==== Sys2Proof/Decode.lean ====
section
/-! DEFINITION. From bytes to operations and back: byte order (R9, R50), the field map (R72), the decode map (R79), the
encoder, and the test-side encoders enc_int and enc_tc (R84). -/

namespace Sys2Proof

/-! ## Byte order -/

/-- W = byte0 ‖ byte1 ‖ byte2 ‖ byte3 (R9, R50). -/
def wordOfBytes (b0 b1 b2 b3 : Byte) : Word := b0 ++ b1 ++ b2 ++ b3

/-- The four bytes of W in wire order (R9). -/
def bytesOfWord (w : Word) : List Byte :=
  [w.extractLsb' 24 8, w.extractLsb' 16 8, w.extractLsb' 8 8, w.extractLsb' 0 8]

/-- Why the decoder refuses a byte sequence. -/
inductive DecodeError where
  /-- The sequence has n bytes and n is not 4 (R37, D3): it gives no Reading. -/
  | frameLength (n : Nat)
deriving DecidableEq, Repr

/-- The frame word of a byte sequence, which must be exactly four bytes (R37). -/
def frameWord : List Byte → Except DecodeError Word
  | [b0, b1, b2, b3] => .ok (wordOfBytes b0 b1 b2 b3)
  | bs => .error (.frameLength bs.length)

/-! ## The fields of W -/

/-- The fields of W (R72). -/
def frameOfWord (w : Word) : Frame where
  oc := w.getLsbD 31
  scg := w.getLsbD 30
  scv := w.getLsbD 29
  rsv := w.getLsbD 28
  intWord := w.extractLsb' 16 12
  faultFlag := w.getLsbD 15
  tcWord := w.extractLsb' 1 14
  scvRep := w.getLsbD 0

/-- The frame word whose fields these are, W[31] first (R71, and the pattern OGVRIIIIIIIIIIIIFTTTTTTTTTTTTTTS of R79). -/
def Frame.word (f : Frame) : Word :=
  BitVec.ofBool f.oc ++ BitVec.ofBool f.scg ++ BitVec.ofBool f.scv ++ BitVec.ofBool f.rsv ++ f.intWord ++
    BitVec.ofBool f.faultFlag ++ f.tcWord ++ BitVec.ofBool f.scvRep

/-- R72's byte arithmetic: `int_word = (byte0 AND 0x0F) * 256 + byte1`. -/
def intWordOfBytes (b0 b1 : Byte) : Nat := (b0 &&& 0x0F#8).toNat * 256 + b1.toNat

/-- R72's byte arithmetic: `tc_word = (byte2 AND 0x7F) * 128 + (byte3 DIV 2)`. -/
def tcWordOfBytes (b2 b3 : Byte) : Nat := (b2 &&& 0x7F#8).toNat * 128 + b3.toNat / 2

/-! ## The decoder and the encoder -/

/-- Every 32-bit frame is a DECODE (R78, R150). -/
def decodeWord (w : Word) : Instr := .decode (frameOfWord w)

/-- The decoder, total on any bytes: four bytes are a DECODE, any other length is refused by name (R37, R150). -/
def decode (bs : List Byte) : Except DecodeError Instr :=
  match frameWord bs with
  | .ok w => .ok (decodeWord w)
  | .error e => .error e

/-- The frame word of an operation: its fields laid out as R71 does; the same layout for every row. -/
def encode : Instr → Word
  | .decode f => f.word
  | .classify f => f.word
  | .classifyNone f => f.word
  | .classifyOc f => f.word
  | .classifyScg f => f.word
  | .classifyScv f => f.word
  | .classifyUnknown f => f.word
  | .extractInt f => f.word
  | .extractTc f => f.word

/-! ## The opcode table's rows (R79)

A frame matches several rows at once, so reading a frame AS a given row is a function of the row. -/

/-- One row of opcode_table.json: its mnemonic, its mask and match over W, and the operation it names. -/
structure TableRow where
  mnemonic : String
  mask : Word
  pattern : Word
  build : Frame → Instr

/-- The nine rows, in the table's order, with the masks and matches of R79. -/
def tableRows : List TableRow :=
  [ { mnemonic := "DECODE", mask := 0x00000000#32, pattern := 0x00000000#32, build := .decode },
    { mnemonic := "CLASSIFY", mask := 0x00000000#32, pattern := 0x00000000#32, build := .classify },
    { mnemonic := "CLASSIFY.NONE", mask := 0x00008000#32, pattern := 0x00000000#32, build := .classifyNone },
    { mnemonic := "CLASSIFY.OC", mask := 0x80008000#32, pattern := 0x80008000#32, build := .classifyOc },
    { mnemonic := "CLASSIFY.SCG", mask := 0xC0008000#32, pattern := 0x40008000#32, build := .classifyScg },
    { mnemonic := "CLASSIFY.SCV", mask := 0xE0008000#32, pattern := 0x20008000#32, build := .classifyScv },
    { mnemonic := "CLASSIFY.UNKNOWN", mask := 0xE0008000#32, pattern := 0x00008000#32, build := .classifyUnknown },
    { mnemonic := "EXTRACT_INT", mask := 0x00000000#32, pattern := 0x00000000#32, build := .extractInt },
    { mnemonic := "EXTRACT_TC", mask := 0x00000000#32, pattern := 0x00000000#32, build := .extractTc } ]

/-- Whether a frame word matches a row. -/
def TableRow.admits (r : TableRow) (w : Word) : Bool := w &&& r.mask == r.pattern

/-- The frame word read as a row: the row's operation where the word matches its mask, none where it does not. -/
def TableRow.read (r : TableRow) (w : Word) : Option Instr :=
  if r.admits w then some (r.build (frameOfWord w)) else none

/-- Every operation a frame passes through (R79), in the table's order. -/
def operationsOf (w : Word) : List Instr := tableRows.filterMap fun r => r.read w

/-- The row of the table an operation belongs to, by its place in `tableRows`. -/
def Instr.rowNumber : Instr → Nat
  | .decode _ => 0
  | .classify _ => 1
  | .classifyNone _ => 2
  | .classifyOc _ => 3
  | .classifyScg _ => 4
  | .classifyScv _ => 5
  | .classifyUnknown _ => 6
  | .extractInt _ => 7
  | .extractTc _ => 8

/-- The frame word w read as the n-th row of the table. -/
def readAsRow (n : Nat) (w : Word) : Option Instr :=
  match tableRows[n]? with
  | some r => r.read w
  | none => none

/-! ## Stimuli (R83) and the test-side encoders (R84) -/

/-- The bytes a stimulus presents, in wire order. -/
def Stimulus.bytes (x : Stimulus) : List Byte :=
  match x.frame with
  | .bytes bs => bs
  | .word w => bytesOfWord w

/-- `t / res` where that is an integer: t is on the field's grid (R84). -/
def gridIndex (res t : Rat) : Option Int :=
  if (t / res).den = 1 then some (t / res).num else none

/-- `enc_int(t)` (R84): the frame of an internal temperature, fault bits cleared; none off the grid or out of range (D25). -/
def encInt (t : Rat) : Option (List Byte) :=
  match gridIndex (1 / 16) t with
  | none => none
  | some r =>
    if -2048 ≤ r ∧ r ≤ 2047 then
      some [BitVec.ofNat 8 ((r % 4096).toNat / 256), BitVec.ofNat 8 ((r % 4096).toNat % 256), 0x00#8, 0x00#8]
    else none

/-- `enc_tc(t)` (R84): the frame of a thermocouple temperature, FAULT clear; none off the grid or out of range (D25). -/
def encTc (t : Rat) : Option (List Byte) :=
  match gridIndex (1 / 4) t with
  | none => none
  | some r =>
    if -8192 ≤ r ∧ r ≤ 8191 then
      some [0x00#8, 0x00#8, BitVec.ofNat 8 ((r % 16384).toNat / 128), BitVec.ofNat 8 ((r % 16384).toNat % 128 * 2)]
    else none

/-! ## The host's numbering -/

/-- The four bytes of a frame whose low nbits are w's and whose other bits are 0, laid out in wire order (R9). -/
def tableBytes (nbits w : Nat) : List Byte := bytesOfWord (BitVec.ofNat 32 (w % 2 ^ nbits))

/-- What the decoder reads from a table word: bit 0 of w is W[0] (the table numbers W's own bits, R79). -/
def decodeTableWord (nbits w : Nat) : Option Instr :=
  match decode (tableBytes nbits w) with
  | .ok i => some i
  | .error _ => none

end Sys2Proof
end

