-- ==== Sys2Proof/Machine/State.lean ====
section
/-! DEFINITION. What the model's state holds: the ports of every instance (R29, R30), the host's stimuli (R36, R83) and the
observation (R41). The block itself has no state (R20 to R27, R201). Also the reasons a step can stop, and reset. -/

namespace Sys2Proof.Machine

/-- FaultKind (R14, R80): "FaultKind ∈ {None, OpenCircuit, ShortToGround, ShortToPower, Unknown}". -/
inductive FaultKind where
  | none
  | openCircuit
  | shortToGround
  | shortToPower
  | unknown
deriving DecidableEq, Repr

/-- The output ports (R30), the words of one Reading. -/
structure Outputs where
  /-- `int_raw`, two's complement, units of 2^-4 °C. -/
  intRaw : BitVec 12
  /-- `tc_raw`, two's complement, units of 2^-2 °C. -/
  tcRaw : BitVec 14
  /-- `fault`, the FaultKind code (R80). -/
  fault : BitVec 3
  /-- `timestamp`, TS_W bits, equal to `now` (R82). -/
  timestamp : Timestamp
deriving DecidableEq, Repr

/-- The ports of one instance of the block (R29, R30). -/
structure Ports where
  /-- Input `frame`, the frame word W. -/
  frame : Word
  /-- Input `now`, TS_W bits. -/
  now : Timestamp
  /-- The output ports. -/
  out : Outputs
deriving DecidableEq, Repr

/-- One decode event (W, now) ↦ Reading (R40), with the instance it happened in. -/
structure Event where
  unit : Nat
  frame : Word
  now : Timestamp
  reading : Outputs
deriving DecidableEq, Repr

/-- The state of the model: ports, the host's program and the observation. -/
structure State where
  /-- The instance the running step evaluates (R40, R180). -/
  active : Nat
  /-- The ports of the instances the host has presented something to, by strictly rising instance number. -/
  instances : List (Nat × Ports)
  /-- What the host will present, in order (R36, R83). -/
  pending : List Stimulus
  /-- The observation: the Readings paired with their inputs, oldest first (R41). The block never reads it. -/
  events : List Event
  /-- The model's own counter of timestamps left out so far (R83, log 4). -/
  freeCount : Nat
deriving DecidableEq, Repr

/-- The block raises no exception, trap or error signal (R170) and has "no fault state, no stuck state" (R40): no step faults,
and the type has no constructor. Safe: there is nothing to raise. -/
inductive Fault
deriving DecidableEq, Repr

/-- Why a step gives no next state. -/
inductive Refusal where
  /-- Raised by `exec` for an operation without a meaning. No operation of this model is left without one. Safe. -/
  | notModelled (mnemonic : String)
  /-- Raised by `step` when the host presents a byte sequence of n bytes and n is not 4 (R37, R40, D3). Safe: no Reading is given. -/
  | frameLength (n : Nat)
deriving DecidableEq, Repr

/-- The state before the host presents anything. The block has no reset and nothing to reset (R200, R201): no stimulus is
pending, no event has happened, and every instance's ports are idle. -/
def State.reset : State where
  active := 0
  instances := []
  pending := []
  events := []
  freeCount := 0

end Sys2Proof.Machine
end

