-- ==== Sys2Proof/Machine/Ops.lean ====
section
/-! DEFINITION. The named operations over the state: reading and driving ports, and the host's two moves, presenting a stimulus
and taking a Reading (R35, R36). There is no operation that takes an exception or returns from one: the block has neither
(R170, R175, R176). -/

namespace Sys2Proof.Machine

/-! ## The ports of the instances -/

/-- The ports of an instance to which the host has presented nothing. The spec gives the inputs no value then; the model drives
them with 0 (DESIGN CHOICE, unsafe: log 5), and the outputs are their function of those inputs (R200, R201). -/
def Ports.idle : Ports where
  frame := 0x00000000#32
  now := 0
  out := { intRaw := 0#12, tcRaw := 0#14, fault := 0#3, timestamp := 0 }

/-- The ports of instance k: those listed for it, or the idle ports. -/
def lookupPorts : List (Nat × Ports) → Nat → Ports
  | [], _ => Ports.idle
  | (j, p) :: rest, k => if k = j then p else lookupPorts rest k

/-- The list with instance k's ports set to q, the numbers still strictly rising. -/
def insertPorts : List (Nat × Ports) → Nat → Ports → List (Nat × Ports)
  | [], k, q => [(k, q)]
  | (j, p) :: rest, k, q =>
    if k < j then (k, q) :: (j, p) :: rest
    else if k = j then (k, q) :: rest
    else (j, p) :: insertPorts rest k q

/-- The canonical form of the list of instances: strictly rising instance numbers. -/
abbrev InstancesWf (l : List (Nat × Ports)) : Prop := l.Pairwise fun a b => a.1 < b.1

/-- The ports of instance k. -/
def State.portsOf (s : State) (k : Nat) : Ports := lookupPorts s.instances k

/-- The ports of the instance the running step evaluates. -/
def State.ports (s : State) : Ports := s.portsOf s.active

/-- p with a frame and a timestamp on its input ports. -/
def Ports.withInputs (p : Ports) (w : Word) (now : Timestamp) : Ports := { p with frame := w, now := now }

/-- p with o on its output ports. -/
def Ports.withOut (p : Ports) (o : Outputs) : Ports := { p with out := o }

/-- Set the ports of instance k and of no other (R180: the instances share no state). -/
def State.setPorts (s : State) (k : Nat) (p : Ports) : State :=
  { s with instances := insertPorts s.instances k p }

/-! ## Driving output ports: `port <- v` (R10) -/

/-- Drive the active instance's output ports; its input ports stay. -/
def State.drive (s : State) (g : Outputs → Outputs) : State :=
  s.setPorts s.active (s.ports.withOut (g s.ports.out))

/-- `fault <- v`. -/
def State.driveFault (s : State) (v : BitVec 3) : State := s.drive fun o => { o with fault := v }

/-- `int_raw <- v`. -/
def State.driveIntRaw (s : State) (v : BitVec 12) : State := s.drive fun o => { o with intRaw := v }

/-- `tc_raw <- v`. -/
def State.driveTcRaw (s : State) (v : BitVec 14) : State := s.drive fun o => { o with tcRaw := v }

/-- `timestamp <- v`. -/
def State.driveTimestamp (s : State) (v : Timestamp) : State := s.drive fun o => { o with timestamp := v }

/-! ## The host's moves (R35, R36) -/

/-- The `now` a stimulus presents, k timestamps having been left out before it: the one it gives, or a free value (R83, log 4). -/
def timestampOf (x : Stimulus) (k : Nat) : Timestamp :=
  match x.now with
  | some t => t
  | none => Config.omittedNow k

/-- How many timestamps have been left out once x has been presented. -/
def omittedAfter (x : Stimulus) (k : Nat) : Nat :=
  match x.now with
  | some _ => k
  | none => k + 1

/-- Put a frame and a timestamp on the input ports of instance k, which is then the one evaluated. Its output ports still show
what they did: a decode drives them (R150). -/
def State.applyInputs (s : State) (k : Nat) (w : Word) (now : Timestamp) : State :=
  { s with active := k, instances := insertPorts s.instances k ((s.portsOf k).withInputs w now) }

/-- The host's program once its next stimulus is taken from it, n timestamps having been left out so far. -/
def State.dequeue (s : State) (rest : List Stimulus) (n : Nat) : State := { s with pending := rest, freeCount := n }

/-- The host presents its next stimulus. With none left it keeps holding the inputs it last presented (R36, R206, log 7); a byte
sequence of another length than 4 is no frame (R37). -/
def State.presentNext (s : State) : Except DecodeError State :=
  match s.pending with
  | [] => .ok s
  | x :: rest =>
    match frameWord x.bytes with
    | .error e => .error e
    | .ok w => .ok ((s.applyInputs x.unit w (timestampOf x s.freeCount)).dequeue rest (omittedAfter x s.freeCount))

/-- The operation the active instance's input ports present: the decoder applied to the bytes of `frame`. -/
def State.fetch (s : State) : Except DecodeError Instr := decode (bytesOfWord s.ports.frame)

/-- The host takes the active instance's Reading, which the observation records beside its inputs (R39, R41). -/
def State.takeReading (s : State) : State :=
  { s with events := s.events ++ [{ unit := s.active, frame := s.ports.frame, now := s.ports.now, reading := s.ports.out }] }

/-- The host takes a Reading exactly when it presented a frame for it: "Exactly one Frame produces exactly one Reading" (R21). -/
def State.collect (s : State) (presented : Bool) : State := if presented then s.takeReading else s

/-- What a step adds after the operation has run. -/
def finishStep (presented : Bool) : Host.Outcome State Fault Refusal → Host.Outcome State Fault Refusal
  | .next t => .next (t.collect presented)
  | .fault r => .fault r
  | .refused r => .refused r

/-- The decoder's refusal as the step's (R37). -/
def refusalOf : DecodeError → Refusal
  | .frameLength n => .frameLength n

end Sys2Proof.Machine
end

