-- ==== Sys2Proof/Machine/Flags.lean ====
section
/-! DEFINITION. The fault classification: CLASSIFY's priority chain (R100, R106), the codes (R80) and the messages (R107). The
block has no stored flags (R22). -/

namespace Sys2Proof.Machine

/-- CLASSIFY(W) (R100): the FAULT flag first, then OC, SCG, SCV, each read as a single bit (R75, R110). -/
def classify (f : Frame) : FaultKind :=
  if f.faultFlag = false then .none
  else if f.oc then .openCircuit
  else if f.scg then .shortToGround
  else if f.scv then .shortToPower
  else .unknown

/-- The 3-bit code of a FaultKind (R80). -/
def FaultKind.code : FaultKind → BitVec 3
  | .none => 0#3
  | .openCircuit => 1#3
  | .shortToGround => 2#3
  | .shortToPower => 3#3
  | .unknown => 4#3

/-- The FaultKind a consumer reads from a code; none for 5, 6 and 7, which "are never produced" (R80, X13). -/
def faultKindOfCode (c : BitVec 3) : Option FaultKind :=
  if c = 0#3 then some .none
  else if c = 1#3 then some .openCircuit
  else if c = 2#3 then some .shortToGround
  else if c = 3#3 then some .shortToPower
  else if c = 4#3 then some .unknown
  else none

/-- The message of a FaultKind (R107), no hardware port (D7). -/
def FaultKind.message : FaultKind → String
  | .none => ""
  | .openCircuit => "Open circuit to thermometer probe"
  | .shortToGround => "Thermometer probe shorted to ground"
  | .shortToPower => "Thermometer probe shorted to power"
  | .unknown => "Unknown fault (fault flag set, no cause bit)"

end Sys2Proof.Machine
end

