-- ==== Sys2Proof/Machine/FaultClassifier.lean ====
section
/-! DEFINITION. The operations of `fault_classifier` (R32): CLASSIFY and its five cases. Each drives `fault` and nothing else. -/

namespace Sys2Proof.Machine

/-- `if c then fault <- code(k)`: the form of every case's pseudocode (R101 to R105). Where c fails nothing is driven (log 2). -/
def driveCase (c : Bool) (k : FaultKind) (s : State) : State := if c then s.driveFault k.code else s

/-- CLASSIFY (R100): `fault <- code(CLASSIFY(W))`. -/
def execClassify (f : Frame) (s : State) : Host.Outcome State Fault Refusal := .next (s.driveFault (classify f).code)

/-- CLASSIFY.NONE (R101): `if W[15] = 0 then fault <- 0`. -/
def execClassifyNone (f : Frame) (s : State) : Host.Outcome State Fault Refusal := .next (driveCase (!f.faultFlag) .none s)

/-- CLASSIFY.OC (R102): `if W[15] = 1 and W[31] = 1 then fault <- 1`. -/
def execClassifyOc (f : Frame) (s : State) : Host.Outcome State Fault Refusal :=
  .next (driveCase (f.faultFlag && f.oc) .openCircuit s)

/-- CLASSIFY.SCG (R103): `if W[15] = 1 and W[31] = 0 and W[30] = 1 then fault <- 2`. -/
def execClassifyScg (f : Frame) (s : State) : Host.Outcome State Fault Refusal :=
  .next (driveCase (f.faultFlag && !f.oc && f.scg) .shortToGround s)

/-- CLASSIFY.SCV (R104): `if W[15] = 1 and W[31:30] = 0b00 and W[29] = 1 then fault <- 3`. -/
def execClassifyScv (f : Frame) (s : State) : Host.Outcome State Fault Refusal :=
  .next (driveCase (f.faultFlag && !f.oc && !f.scg && f.scv) .shortToPower s)

/-- CLASSIFY.UNKNOWN (R105): `if W[15] = 1 and W[31:29] = 0b000 then fault <- 4`. -/
def execClassifyUnknown (f : Frame) (s : State) : Host.Outcome State Fault Refusal :=
  .next (driveCase (f.faultFlag && !f.oc && !f.scg && !f.scv) .unknown s)

end Sys2Proof.Machine
end

