-- ==== Sys2Proof/Machine/Operands.lean ====
section
/-! DEFINITION. The operands of the operations: the byte pairs (R34), the generic extractor (R120, R121) and exact scaling (R126). -/

namespace Sys2Proof.Machine

/-- `signed_N(u)` (R10, R11): subtract 2^N when the top bit is set. -/
def signedN {n : Nat} (u : BitVec n) : Int :=
  if u.getLsbD (n - 1) then (u.toNat : Int) - 2 ^ n else u.toNat

/-- `u := P[S:lo]` with `lo := S - N + 1`, the N-bit unsigned raw word (R120). -/
def rawWord (p : BitVec 16) (n s : Nat) : BitVec n := p.extractLsb' (s + 1 - n) n

/-- EXTRACT(P, N, S, RES).raw (R120): the sign is reconstructed from the raw word, and the port carries the result as an N-bit
two's-complement word. -/
def extract (p : BitVec 16) (n s : Nat) : BitVec n := BitVec.ofInt n (signedN (rawWord p n s))

/-- `value := r × RES`, exact (R120, R125, R126): the signed raw value is scaled, never the unsigned word. -/
def scaled {n : Nat} (raw : BitVec n) (res : Rat) : Rat := (signedN raw : Rat) * res

/-- The parameters for which EXTRACT is defined (R121): the field lies inside the pair. -/
def extractDefined (n s : Nat) : Bool := 1 ≤ n && n ≤ 16 && s ≤ 15 && n ≤ s + 1

/-- EXTRACT with all its parameters: the raw word and the °C value, and none for parameters R121 does not define (log 21). -/
def extractGeneric (p : BitVec 16) (n s : Nat) (res : Rat) : Option (BitVec n × Rat) :=
  if extractDefined n s then some (extract p n s, scaled (extract p n s) res) else none

/-- W[31:16] = byte0 ‖ byte1, the pair of `u_int` (R34). -/
def intPair (w : Word) : BitVec 16 := w.extractLsb' 16 16

/-- W[15:0] = byte2 ‖ byte3, the pair of `u_tc` (R34). -/
def tcPair (w : Word) : BitVec 16 := w.extractLsb' 0 16

/-- INT_RES, 0.0625 °C/LSB = 2^-4 (R7). -/
def intRes : Rat := 1 / 16

/-- TC_RES, 0.25 °C/LSB = 2^-2 (R7). -/
def tcRes : Rat := 1 / 4

/-- The instance `u_int` (R34, R122): N = 12, S = 11. -/
def extractInt (w : Word) : BitVec 12 := extract (intPair w) 12 11

/-- The instance `u_tc` (R34, R123): N = 14, S = 14 (90_conflicts.md C2). -/
def extractTc (w : Word) : BitVec 14 := extract (tcPair w) 14 14

end Sys2Proof.Machine
end

