-- ==== Sys2Proof/Machine/FixedPointExtractor.lean ====
section
/-! DEFINITION. The operations of the two instances of `fixed_point_extractor` (R33, R34). -/

namespace Sys2Proof.Machine

/-- EXTRACT_INT (R122): `int_raw <- EXTRACT(W[31:16], 12, 11, 2^-4).raw`. -/
def execExtractInt (f : Frame) (s : State) : Host.Outcome State Fault Refusal := .next (s.driveIntRaw (extractInt f.word))

/-- EXTRACT_TC (R123): `tc_raw <- EXTRACT(W[15:0], 14, 14, 2^-2).raw`. -/
def execExtractTc (f : Frame) (s : State) : Host.Outcome State Fault Refusal := .next (s.driveTcRaw (extractTc f.word))

end Sys2Proof.Machine
end

