-- ==== Sys2Proof/Machine/Reading.lean ====
section
/-! DEFINITION. The Reading as its consumer sees it: exact °C values, FaultKind, message and timestamp, all functions of the output
ports (R30, R81, R150). -/

namespace Sys2Proof.Machine

/-- Reading = (internalTempC, thermocoupleTempC, fault, message, timestamp) (R30, R150), the °C values exact rationals (R81). -/
structure Reading where
  internalTempC : Rat
  thermocoupleTempC : Rat
  fault : FaultKind
  message : String
  timestamp : Timestamp
deriving DecidableEq, Repr

/-- `internalTempC = int_raw × 0.0625` (R81). -/
def internalTempC (o : Outputs) : Rat := scaled o.intRaw intRes

/-- `thermocoupleTempC = tc_raw × 0.25` (R81). -/
def thermocoupleTempC (o : Outputs) : Rat := scaled o.tcRaw tcRes

/-- The Reading on the output ports; none where `fault` holds a code that is no FaultKind (R80, X13). -/
def readingOf (o : Outputs) : Option Reading :=
  match faultKindOfCode o.fault with
  | none => none
  | some k =>
    some { internalTempC := internalTempC o, thermocoupleTempC := thermocoupleTempC o, fault := k,
           message := k.message, timestamp := o.timestamp }

end Sys2Proof.Machine
end

