-- ==== Sys2Proof/Machine/FrameDecoder.lean ====
section
/-! DEFINITION. The frame decoder: DECODE as the pure function of R150, and as the operation that drives the four output ports. -/

namespace Sys2Proof.Machine

/-- DECODE(W, now) (R150) as a pure function of its inputs (R21, R153): the words of the Reading. -/
def decodeReading (w : Word) (now : Timestamp) : Outputs where
  intRaw := extractInt w
  tcRaw := extractTc w
  fault := (classify (frameOfWord w)).code
  timestamp := now

/-- DECODE (R150): all three sub-operations run on every frame, whatever the classification (R152), and `timestamp <- now`. -/
def execDecode (f : Frame) (s : State) : Host.Outcome State Fault Refusal :=
  .next ((((s.driveFault (classify f).code).driveIntRaw (extractInt f.word)).driveTcRaw (extractTc f.word)).driveTimestamp
    s.ports.now)

end Sys2Proof.Machine
end

