-- ==== Sys2Proof/Machine/Dispatch.lean ====
section
/-! DEFINITION. Which meaning each operation of the opcode table has. -/

namespace Sys2Proof.Machine

def exec (i : Instr) (s : State) : Host.Outcome State Fault Refusal :=
  match i with
  | .decode f => Sys2Proof.Machine.execDecode f s
  | .classify f => Sys2Proof.Machine.execClassify f s
  | .classifyNone f => Sys2Proof.Machine.execClassifyNone f s
  | .classifyOc f => Sys2Proof.Machine.execClassifyOc f s
  | .classifyScg f => Sys2Proof.Machine.execClassifyScg f s
  | .classifyScv f => Sys2Proof.Machine.execClassifyScv f s
  | .classifyUnknown f => Sys2Proof.Machine.execClassifyUnknown f s
  | .extractInt f => Sys2Proof.Machine.execExtractInt f s
  | .extractTc f => Sys2Proof.Machine.execExtractTc f s

end Sys2Proof.Machine
end

