-- ==== Sys2Proof/Machine/Step.lean ====
section
/-! DEFINITION. One step of the model: the host presents a frame, the instance it went to decodes it, and the host takes the
Reading. One atomic decode event (R40, R203). -/

namespace Sys2Proof.Machine

/-- One decode event (R40). The only refusal is R37's, for a byte sequence whose length is not 4. With nothing pending the held
inputs are evaluated again and no Reading is taken (R28, R55, log 7). -/
def step (s : State) : Host.Outcome State Fault Refusal :=
  match s.presentNext with
  | .error e => .refused (refusalOf e)
  | .ok t =>
    match t.fetch with
    | .error e => .refused (refusalOf e)
    | .ok i => finishStep (!s.pending.isEmpty) (exec i t)

/-- s with a table word as the stimulus the host presents next, to the active instance and with the timestamp its `now` port
already holds. How a program comes to run from reset: log 6. -/
def State.withFetchWord (s : State) (nbits w : Nat) : State :=
  { s with pending := { unit := s.active, frame := .bytes (tableBytes nbits w), now := some s.ports.now } :: s.pending }

end Sys2Proof.Machine
end

