-- ==== Sys2Proof/Laws/Decode.lean ====
section
/-! SUPPORT. The byte order and the field map undo each other: no bit of a frame is dropped. -/

namespace Sys2Proof

/-! ## The bits of a laid-out word (R71) -/

theorem Frame.word_oc (f : Frame) : f.word.getLsbD 31 = f.oc := by
  simp only [Frame.word, BitVec.getLsbD_append]
  simp

theorem Frame.word_scg (f : Frame) : f.word.getLsbD 30 = f.scg := by
  simp only [Frame.word, BitVec.getLsbD_append]
  simp

theorem Frame.word_scv (f : Frame) : f.word.getLsbD 29 = f.scv := by
  simp only [Frame.word, BitVec.getLsbD_append]
  simp

theorem Frame.word_rsv (f : Frame) : f.word.getLsbD 28 = f.rsv := by
  simp only [Frame.word, BitVec.getLsbD_append]
  simp

theorem Frame.word_faultFlag (f : Frame) : f.word.getLsbD 15 = f.faultFlag := by
  simp only [Frame.word, BitVec.getLsbD_append]
  simp

theorem Frame.word_scvRep (f : Frame) : f.word.getLsbD 0 = f.scvRep := by
  simp only [Frame.word, BitVec.getLsbD_append]
  simp

theorem Frame.word_intWord (f : Frame) : f.word.extractLsb' 16 12 = f.intWord := by
  apply BitVec.eq_of_getLsbD_eq
  intro i hi
  simp only [Frame.word, BitVec.getLsbD_extractLsb', BitVec.getLsbD_append]
  interval_cases i <;> simp

theorem Frame.word_tcWord (f : Frame) : f.word.extractLsb' 1 14 = f.tcWord := by
  apply BitVec.eq_of_getLsbD_eq
  intro i hi
  simp only [Frame.word, BitVec.getLsbD_extractLsb', BitVec.getLsbD_append]
  simp (disch := omega) [hi]

/-- The fields of a word laid out from fields are those fields. -/
theorem frameOfWord_word (f : Frame) : frameOfWord f.word = f := by
  simp only [frameOfWord, Frame.word_oc, Frame.word_scg, Frame.word_scv, Frame.word_rsv, Frame.word_faultFlag,
    Frame.word_scvRep, Frame.word_intWord, Frame.word_tcWord]

/-- The word laid out from a word's fields is that word: R71's table gives every bit exactly once. -/
theorem word_frameOfWord (w : Word) : (frameOfWord w).word = w := by
  apply BitVec.eq_of_getLsbD_eq
  intro i hi
  simp only [frameOfWord, Frame.word, BitVec.getLsbD_append, BitVec.getLsbD_extractLsb', BitVec.getLsbD_ofBool]
  interval_cases i <;> simp

/-! ## Byte order (R9) -/

/-- The bytes of a word, read back in wire order, are that word. -/
theorem frameWord_bytesOfWord (w : Word) : frameWord (bytesOfWord w) = .ok w := by
  simp only [bytesOfWord, frameWord, wordOfBytes, Except.ok.injEq]
  apply BitVec.eq_of_getLsbD_eq
  intro i hi
  simp only [BitVec.getLsbD_append, BitVec.getLsbD_extractLsb']
  interval_cases i <;> simp

/-- Four bytes always are a frame word. -/
theorem frameWord_of_length {bs : List Byte} (h : bs.length = 4) : ∃ w, frameWord bs = .ok w := by
  match bs, h with
  | [b0, b1, b2, b3], _ => exact ⟨_, rfl⟩

/-- Any other length is refused with that length. -/
theorem frameWord_of_length_ne {bs : List Byte} (h : bs.length ≠ 4) : frameWord bs = .error (.frameLength bs.length) := by
  unfold frameWord
  split
  · exact absurd rfl h
  · rfl

/-- What the decoder reads from a word's bytes. -/
theorem decode_bytesOfWord (w : Word) : decode (bytesOfWord w) = .ok (decodeWord w) := by
  simp only [decode, frameWord_bytesOfWord]

/-- A well-formed stimulus presents four bytes. -/
theorem Stimulus.length_of_wellFormed {x : Stimulus} (h : x.wellFormed = true) : x.bytes.length = 4 := by
  unfold Stimulus.wellFormed at h
  unfold Stimulus.bytes
  split at h <;> simp_all [bytesOfWord]

/-! ## Rows of the table (R79) -/

/-- Matching a mask against a pattern, one bit at a time. -/
theorem and_eq_iff_bits (w mask pattern : Word) :
    w &&& mask = pattern ↔ ∀ i, i < 32 → (w.getLsbD i && mask.getLsbD i) = pattern.getLsbD i := by
  constructor
  · rintro rfl i _
    simp
  · intro h
    exact BitVec.eq_of_getLsbD_eq fun i hi => by simpa using h i hi

/-- CLASSIFY.NONE's row admits a frame exactly when its fixed bits hold (R79). -/
theorem admits_none (f : Frame) : f.word &&& 0x00008000#32 = 0x00000000#32 ↔ f.isNone = true := by
  rw [and_eq_iff_bits, Frame.isNone, ← f.word_faultFlag]
  constructor
  · intro h
    simpa using h 15 (by decide)
  · intro h i hi
    interval_cases i <;> simp_all

/-- CLASSIFY.OC's row admits a frame exactly when its fixed bits hold (R79). -/
theorem admits_oc (f : Frame) : f.word &&& 0x80008000#32 = 0x80008000#32 ↔ f.isOc = true := by
  rw [and_eq_iff_bits, Frame.isOc, ← f.word_faultFlag, ← f.word_oc]
  constructor
  · intro h
    have h15 := h 15 (by decide)
    have h31 := h 31 (by decide)
    simp_all
  · intro h i hi
    interval_cases i <;> simp_all

/-- CLASSIFY.SCG's row admits a frame exactly when its fixed bits hold (R79). -/
theorem admits_scg (f : Frame) : f.word &&& 0xC0008000#32 = 0x40008000#32 ↔ f.isScg = true := by
  rw [and_eq_iff_bits, Frame.isScg, ← f.word_faultFlag, ← f.word_oc, ← f.word_scg]
  constructor
  · intro h
    have h15 := h 15 (by decide)
    have h31 := h 31 (by decide)
    have h30 := h 30 (by decide)
    simp_all
  · intro h i hi
    interval_cases i <;> simp_all

/-- CLASSIFY.SCV's row admits a frame exactly when its fixed bits hold (R79). -/
theorem admits_scv (f : Frame) : f.word &&& 0xE0008000#32 = 0x20008000#32 ↔ f.isScv = true := by
  rw [and_eq_iff_bits, Frame.isScv, ← f.word_faultFlag, ← f.word_oc, ← f.word_scg, ← f.word_scv]
  constructor
  · intro h
    have h15 := h 15 (by decide)
    have h31 := h 31 (by decide)
    have h30 := h 30 (by decide)
    have h29 := h 29 (by decide)
    simp_all
  · intro h i hi
    interval_cases i <;> simp_all

/-- CLASSIFY.UNKNOWN's row admits a frame exactly when its fixed bits hold (R79). -/
theorem admits_unknown (f : Frame) : f.word &&& 0xE0008000#32 = 0x00008000#32 ↔ f.isUnknown = true := by
  rw [and_eq_iff_bits, Frame.isUnknown, ← f.word_faultFlag, ← f.word_oc, ← f.word_scg, ← f.word_scv]
  constructor
  · intro h
    have h15 := h 15 (by decide)
    have h31 := h 31 (by decide)
    have h30 := h 30 (by decide)
    have h29 := h 29 (by decide)
    simp_all
  · intro h i hi
    interval_cases i <;> simp_all

/-- Every row lays its frame out alike. -/
theorem encode_eq_word (i : Instr) : encode i = i.frame.word := by
  cases i <;> rfl

end Sys2Proof
end

