-- ==== Sys2Proof/Laws/PerInstr.lean ====
section
/-! SUPPORT. Statements made for every operation of the opcode table, one lemma per constructor. -/

namespace Sys2Proof.Laws

/-- A well-formed operation's frame word, read as the operation's own row of the table, gives the operation back. -/
def RowRoundTrip.Statement (i : Instr) : Prop :=
  i.wellFormed = true → readAsRow i.rowNumber (encode i) = some i

/-- Reading a laid-out frame as a row: the row's operation when the row admits it. -/
theorem readAsRow_word {n : Nat} {r : TableRow} (hr : tableRows[n]? = some r) (f : Frame)
    (h : f.word &&& r.mask = r.pattern) : readAsRow n f.word = some (r.build f) := by
  simp only [readAsRow, hr, TableRow.read, TableRow.admits, beq_iff_eq, h, if_true, frameOfWord_word]

theorem RowRoundTrip.decode (f : Frame) : RowRoundTrip.Statement (.decode f) :=
  fun _ => readAsRow_word (n := 0) (r := tableRows[0]) rfl f BitVec.and_zero

theorem RowRoundTrip.classify (f : Frame) : RowRoundTrip.Statement (.classify f) :=
  fun _ => readAsRow_word (n := 1) (r := tableRows[1]) rfl f BitVec.and_zero

theorem RowRoundTrip.classifyNone (f : Frame) : RowRoundTrip.Statement (.classifyNone f) :=
  fun h => readAsRow_word (n := 2) (r := tableRows[2]) rfl f ((admits_none f).mpr h)

theorem RowRoundTrip.classifyOc (f : Frame) : RowRoundTrip.Statement (.classifyOc f) :=
  fun h => readAsRow_word (n := 3) (r := tableRows[3]) rfl f ((admits_oc f).mpr h)

theorem RowRoundTrip.classifyScg (f : Frame) : RowRoundTrip.Statement (.classifyScg f) :=
  fun h => readAsRow_word (n := 4) (r := tableRows[4]) rfl f ((admits_scg f).mpr h)

theorem RowRoundTrip.classifyScv (f : Frame) : RowRoundTrip.Statement (.classifyScv f) :=
  fun h => readAsRow_word (n := 5) (r := tableRows[5]) rfl f ((admits_scv f).mpr h)

theorem RowRoundTrip.classifyUnknown (f : Frame) : RowRoundTrip.Statement (.classifyUnknown f) :=
  fun h => readAsRow_word (n := 6) (r := tableRows[6]) rfl f ((admits_unknown f).mpr h)

theorem RowRoundTrip.extractInt (f : Frame) : RowRoundTrip.Statement (.extractInt f) :=
  fun _ => readAsRow_word (n := 7) (r := tableRows[7]) rfl f BitVec.and_zero

theorem RowRoundTrip.extractTc (f : Frame) : RowRoundTrip.Statement (.extractTc f) :=
  fun _ => readAsRow_word (n := 8) (r := tableRows[8]) rfl f BitVec.and_zero

end Sys2Proof.Laws
end

