-- ==== Sys2Proof/Safety.lean ====
section
/-! DEFINITION. The terms statements are written in: settled ports, sound events, the invariant of a run, and what an operation
leaves alone. -/

namespace Sys2Proof.Machine

/-- The output ports are DECODE of the input ports: "at any instant each output is the function of rule R150 applied to the current
inputs" (R28). -/
abbrev Settled (p : Ports) : Prop := p.out = decodeReading p.frame p.now

/-- An event's Reading is DECODE of the event's own inputs (R40, R153). -/
abbrev EventSound (e : Event) : Prop := e.reading = decodeReading e.frame e.now

/-- The invariant of a run: the instances are listed in canonical form, every instance's outputs are settled, every recorded event is sound. -/
structure Inv (s : State) : Prop where
  wf : InstancesWf s.instances
  settled : ∀ k, Settled (s.portsOf k)
  sound : ∀ e ∈ s.events, EventSound e

/-- s and t differ at most in the active instance's output ports: the host's program, the observation, the model's counter, every
input port and every port of every other instance agree. -/
structure OnlyOutputs (s t : State) : Prop where
  active : t.active = s.active
  pending : t.pending = s.pending
  events : t.events = s.events
  freeCount : t.freeCount = s.freeCount
  frame : t.ports.frame = s.ports.frame
  now : t.ports.now = s.ports.now
  others : ∀ k, k ≠ s.active → t.portsOf k = s.portsOf k

/-- Every timestamp of the state is a TS_W-bit value (R29, R30, R82). The ports' types give it, in every state. -/
structure TimestampsFit (s : State) : Prop where
  ports : ∀ k, (s.portsOf k).now.toNat < 2 ^ Config.tsW ∧ (s.portsOf k).out.timestamp.toNat < 2 ^ Config.tsW
  events : ∀ e ∈ s.events, e.now.toNat < 2 ^ Config.tsW ∧ e.reading.timestamp.toNat < 2 ^ Config.tsW
  pending : ∀ x ∈ s.pending, ∀ t, x.now = some t → t.toNat < 2 ^ Config.tsW

/-- "The `timestamp` output is bit-for-bit equal to the `now` input" (R82), at every instance and in every recorded event. -/
structure TimestampsPass (s : State) : Prop where
  ports : ∀ k, (s.portsOf k).out.timestamp = (s.portsOf k).now
  events : ∀ e ∈ s.events, e.reading.timestamp = e.now

/-- What R40 and R41 say the observation of a stimulus program is: one event a stimulus, in order, each Reading DECODE of its own
inputs; k timestamps have been left out before it. A stimulus that is no frame ends the run. -/
def eventsOf : List Stimulus → Nat → List Event
  | [], _ => []
  | x :: rest, k =>
    match frameWord x.bytes with
    | .error _ => []
    | .ok w =>
      { unit := x.unit, frame := w, now := timestampOf x k, reading := decodeReading w (timestampOf x k) } ::
        eventsOf rest (omittedAfter x k)

/-- The operations of a list, run one after the other on the same inputs. -/
def execAll : List Instr → State → Host.Outcome State Fault Refusal
  | [], s => .next s
  | i :: rest, s =>
    match exec i s with
    | .next t => execAll rest t
    | .fault r => .fault r
    | .refused r => .refused r

/-- s with one frame word and timestamp as what the host presents next, to instance u. -/
def State.presenting (s : State) (u : Nat) (w : Word) (now : Timestamp) (rest : List Stimulus) : State :=
  { s with pending := { unit := u, frame := .word w, now := some now } :: rest }

end Sys2Proof.Machine
end

