-- ==== Sys2Proof/Certificates/Slice0/Obligations.lean ====
section
/-! DEFINITION. The statements for the provers. W[i] is written `W.getLsbD i`. -/

open Sys2Proof Sys2Proof.Machine

/-! ## Reset, invariants -/

/-- R200, R201. Before the host presents anything no stimulus is pending, nothing has been observed, and every instance's output
ports are the function of its input ports and no value of their own. That the inputs are then 0 is the model's choice (log 5) and
is not stated. -/
def Obligations.ResetOutputsAreTheFunctionOfTheInputs : Prop :=
  State.reset.pending = [] ∧ State.reset.events = [] ∧
  ∀ k, ∃ w now, (State.reset.portsOf k).frame = w ∧ (State.reset.portsOf k).now = now ∧
    (State.reset.portsOf k).out.intRaw.toInt =
      (if w.getLsbD 27 then ((w.extractLsb' 16 12).toNat : Int) - 4096 else (w.extractLsb' 16 12).toNat) ∧
    (State.reset.portsOf k).out.tcRaw.toInt =
      (if w.getLsbD 14 then ((w.extractLsb' 1 14).toNat : Int) - 16384 else (w.extractLsb' 1 14).toNat) ∧
    (State.reset.portsOf k).out.fault =
      (if w.getLsbD 15 = false then 0#3 else if w.getLsbD 31 then 1#3 else if w.getLsbD 30 then 2#3
       else if w.getLsbD 29 then 3#3 else 4#3) ∧
    (State.reset.portsOf k).out.timestamp = now

/-- The invariants hold at reset. -/
def Obligations.ResetMeetsTheInvariants : Prop := Inv State.reset ∧ TimestampsFit State.reset ∧ TimestampsPass State.reset

/-- R28, R40, R153: every step keeps the invariant: the instances listed in canonical form, every instance's outputs the function of
its inputs, every recorded Reading the function of its own inputs. -/
def Obligations.StepKeepsPortsSettledAndEventsSound : Prop :=
  ∀ s t : State, Inv s → step s = .next t → Inv t

/-- R29, R30, R82: whatever state a step is taken from, every timestamp after it is a TS_W-bit value, the evaluated instance's
`timestamp` is its `now` bit for bit, so is every Reading the step records, and where that held of every instance and every
recorded Reading it still does. It holds for every TS_W (log 3) and every value of a timestamp left out (log 4). -/
def Obligations.StepKeepsTimestampsTsWBits : Prop :=
  ∀ s t : State, step s = .next t →
    TimestampsFit t ∧ t.ports.out.timestamp = t.ports.now ∧
    (∃ es, t.events = s.events ++ es ∧ ∀ e ∈ es, e.reading.timestamp = e.now) ∧
    (TimestampsPass s → TimestampsPass t)

/-! ## Encoding -/

/-- R71, R72, R78, R150: every frame decodes to a DECODE with all its fields, and no bit is dropped in either direction. -/
def Obligations.DecodeAndEncodeAgree : Prop :=
  (∀ f : Frame, decode (bytesOfWord (encode (.decode f))) = .ok (.decode f)) ∧
  (∀ w : Word, ∃ f : Frame, decode (bytesOfWord w) = .ok (.decode f) ∧ encode (.decode f) = w)

/-- R79: every well-formed operation's frame word, read as the operation's own row of the table, gives the operation back. -/
def Obligations.EveryRowReadsItsOwnOperationBack : Prop :=
  ∀ i : Instr, Sys2Proof.Laws.RowRoundTrip.Statement i

/-- R79: the mask and match of each case are its condition on W[15], W[31], W[30], W[29], and the operations a frame passes through
are DECODE, CLASSIFY, exactly one case, EXTRACT_INT and EXTRACT_TC. -/
def Obligations.FramePassesThroughExactlyOneCase : Prop :=
  ∀ w : Word,
    (w &&& 0x00008000#32 = 0x00000000#32 ↔ w.getLsbD 15 = false) ∧
    (w &&& 0x80008000#32 = 0x80008000#32 ↔ w.getLsbD 15 = true ∧ w.getLsbD 31 = true) ∧
    (w &&& 0xC0008000#32 = 0x40008000#32 ↔ w.getLsbD 15 = true ∧ w.getLsbD 31 = false ∧ w.getLsbD 30 = true) ∧
    (w &&& 0xE0008000#32 = 0x20008000#32 ↔
      w.getLsbD 15 = true ∧ w.getLsbD 31 = false ∧ w.getLsbD 30 = false ∧ w.getLsbD 29 = true) ∧
    (w &&& 0xE0008000#32 = 0x00008000#32 ↔
      w.getLsbD 15 = true ∧ w.getLsbD 31 = false ∧ w.getLsbD 30 = false ∧ w.getLsbD 29 = false) ∧
    operationsOf w =
      [.decode (frameOfWord w), .classify (frameOfWord w),
       (if w.getLsbD 15 = false then .classifyNone (frameOfWord w)
        else if w.getLsbD 31 then .classifyOc (frameOfWord w)
        else if w.getLsbD 30 then .classifyScg (frameOfWord w)
        else if w.getLsbD 29 then .classifyScv (frameOfWord w)
        else .classifyUnknown (frameOfWord w)),
       .extractInt (frameOfWord w), .extractTc (frameOfWord w)]

/-- R9: W = byte0 ‖ byte1 ‖ byte2 ‖ byte3, so byteK bit j is W[8*(3-K)+j]. -/
def Obligations.FrameWordIsBigEndian : Prop :=
  ∀ b0 b1 b2 b3 : Byte, ∃ w : Word, frameWord [b0, b1, b2, b3] = .ok w ∧ bytesOfWord w = [b0, b1, b2, b3] ∧
    ∀ j, j < 8 →
      b0.getLsbD j = w.getLsbD (8 * 3 + j) ∧ b1.getLsbD j = w.getLsbD (8 * 2 + j) ∧
      b2.getLsbD j = w.getLsbD (8 * 1 + j) ∧ b3.getLsbD j = w.getLsbD j

/-- R72: the fields as bit ranges of W, and the same fields in byte arithmetic. -/
def Obligations.FieldsAreBitRangesAndByteArithmetic : Prop :=
  ∀ b0 b1 b2 b3 : Byte, ∃ (w : Word) (f : Frame),
    frameWord [b0, b1, b2, b3] = .ok w ∧ decode [b0, b1, b2, b3] = .ok (.decode f) ∧
    f.oc = w.getLsbD 31 ∧ f.oc = b0.getLsbD 7 ∧
    f.scg = w.getLsbD 30 ∧ f.scg = b0.getLsbD 6 ∧
    f.scv = w.getLsbD 29 ∧ f.scv = b0.getLsbD 5 ∧
    f.rsv = w.getLsbD 28 ∧ f.rsv = b0.getLsbD 4 ∧
    f.intWord.toNat = w.toNat / 2 ^ 16 % 2 ^ 12 ∧ f.intWord.toNat = (b0 &&& 0x0F#8).toNat * 256 + b1.toNat ∧
    f.faultFlag = w.getLsbD 15 ∧ f.faultFlag = b2.getLsbD 7 ∧
    f.tcWord.toNat = w.toNat / 2 % 2 ^ 14 ∧ f.tcWord.toNat = (b2 &&& 0x7F#8).toNat * 128 + b3.toNat / 2 ∧
    f.scvRep = w.getLsbD 0 ∧ f.scvRep = b3.getLsbD 0

/-- 95_test_vectors.md V-S1, V-S2, V-F14, V-D3: frames written out from R71 decode to the fields they stand for. -/
def Obligations.SampleFramesDecode : Prop :=
  decode [0x00#8, 0x50#8, 0x02#8, 0x00#8] = .ok (.decode
    { oc := false, scg := false, scv := false, rsv := false, intWord := 80#12, faultFlag := false, tcWord := 256#14, scvRep := false }) ∧
  decode [0x80#8, 0x00#8, 0x81#8, 0x00#8] = .ok (.decode
    { oc := true, scg := false, scv := false, rsv := false, intWord := 0#12, faultFlag := true, tcWord := 128#14, scvRep := false }) ∧
  decode [0x10#8, 0x00#8, 0x80#8, 0x01#8] = .ok (.decode
    { oc := false, scg := false, scv := false, rsv := true, intWord := 0#12, faultFlag := true, tcWord := 0#14, scvRep := true }) ∧
  decode [0x8F#8, 0xFF#8, 0xFF#8, 0xFF#8] = .ok (.decode
    { oc := true, scg := false, scv := false, rsv := false, intWord := 0xFFF#12, faultFlag := true, tcWord := 0x3FFF#14, scvRep := true })

/-! ## The step -/

/-- R40: a step is the host's move, then exec of the decoded operation at the state with the inputs presented, then the host takes the
Reading. With nothing pending it is exec of the operation the held inputs decode to (log 7). -/
def Obligations.StepRunsTheDecodedOperation : Prop :=
  (∀ (s : State) (x : Stimulus) (rest : List Stimulus) (w : Word) (i : Instr),
    s.pending = x :: rest → frameWord x.bytes = .ok w → decode x.bytes = .ok i →
    ∃ u, exec i ((s.applyInputs x.unit w (timestampOf x s.freeCount)).dequeue rest (omittedAfter x s.freeCount)) = .next u ∧
      step s = .next u.takeReading) ∧
  (∀ (s : State) (i : Instr), s.pending = [] → decode (bytesOfWord s.ports.frame) = .ok i →
    ∃ u, exec i s = .next u ∧ step s = .next u)

/-- R37: a byte sequence whose length is not 4 is refused by name and gives no Reading; one of length 4 gives one. -/
def Obligations.OnlyFourBytesGiveAReading : Prop :=
  ∀ (s : State) (x : Stimulus) (rest : List Stimulus), s.pending = x :: rest →
    (x.bytes.length ≠ 4 → step s = .refused (.frameLength x.bytes.length)) ∧
    (x.bytes.length = 4 → ∃ t e, step s = .next t ∧ t.events = s.events ++ [e])

/-- R40: no step faults, and the only refusal is of a pending byte sequence whose length is not 4. -/
def Obligations.RefusalsAreWrongLengthsOnly : Prop :=
  ∀ s : State, (∃ t, step s = .next t) ∨
    ∃ x rest, s.pending = x :: rest ∧ x.bytes.length ≠ 4 ∧ step s = .refused (.frameLength x.bytes.length)

/-- R151: every 32-bit W and every now gives exactly one Reading, from every state and at every instance, with finite °C values. -/
def Obligations.EveryFrameGivesExactlyOneReading : Prop :=
  ∀ (s : State) (u : Nat) (w : Word) (now : Timestamp) (rest : List Stimulus),
    ∃ t o r, step (s.presenting u w now rest) = .next t ∧
      t.events = s.events ++ [{ unit := u, frame := w, now := now, reading := o }] ∧ readingOf o = some r ∧
      -128 ≤ r.internalTempC ∧ r.internalTempC ≤ 2047 / 16 ∧ -2048 ≤ r.thermocoupleTempC ∧ r.thermocoupleTempC ≤ 8191 / 4

/-- R21, R153: the Reading of a frame is a function of that frame and `now` alone: two states that have nothing in common but the
stimulus presented next record the same event. -/
def Obligations.ReadingDependsOnItsInputsAlone : Prop :=
  ∀ (s s' : State) (u : Nat) (w : Word) (now : Timestamp) (rest rest' : List Stimulus),
    ∃ t t' e, step (s.presenting u w now rest) = .next t ∧ step (s'.presenting u w now rest') = .next t' ∧
      t.events = s.events ++ [e] ∧ t'.events = s'.events ++ [e] ∧ t.portsOf u = t'.portsOf u

/-- R40, R180: one decode event of the whole machine: the Reading recorded and shown on the ports of the instance it was presented
to, every other instance's ports unchanged, and the host's program one shorter. The observation is the model's field (log 10). -/
def Obligations.StepDecodesThePresentedFrame : Prop :=
  ∀ (s : State) (x : Stimulus) (rest : List Stimulus) (w : Word), s.pending = x :: rest → frameWord x.bytes = .ok w →
    ∃ t o, step s = .next t ∧
      o.intRaw.toInt = (if w.getLsbD 27 then ((w.extractLsb' 16 12).toNat : Int) - 4096 else (w.extractLsb' 16 12).toNat) ∧
      o.tcRaw.toInt = (if w.getLsbD 14 then ((w.extractLsb' 1 14).toNat : Int) - 16384 else (w.extractLsb' 1 14).toNat) ∧
      o.fault = (if w.getLsbD 15 = false then 0#3 else if w.getLsbD 31 then 1#3 else if w.getLsbD 30 then 2#3
                 else if w.getLsbD 29 then 3#3 else 4#3) ∧
      o.timestamp = timestampOf x s.freeCount ∧
      t.portsOf x.unit = { frame := w, now := timestampOf x s.freeCount, out := o } ∧
      (∀ k, k ≠ x.unit → t.portsOf k = s.portsOf k) ∧
      t.events = s.events ++ [{ unit := x.unit, frame := w, now := timestampOf x s.freeCount, reading := o }] ∧
      t.pending = rest ∧ t.active = x.unit ∧ t.freeCount = omittedAfter x s.freeCount

/-- R28, R55: with nothing pending the held inputs are evaluated again: the outputs are their function and nothing else changes. The
held step is the model's choice (log 7). In a state that meets the invariant no port changes at all. -/
def Obligations.HeldInputsGiveTheSameOutputs : Prop :=
  ∀ s : State, s.pending = [] → ∃ t, step s = .next t ∧ OnlyOutputs s t ∧
    t.ports.out = decodeReading s.ports.frame s.ports.now ∧ (Inv s → ∀ k, t.portsOf k = s.portsOf k)

/-- R40, R41: a run over a whole stimulus program observes exactly one Reading a stimulus, in order, each DECODE of its own inputs.
A timestamp left out is the model's free value, whatever it is (log 4), and the observation is the model's field (log 10). -/
def Obligations.RunObservesOneReadingPerStimulus : Prop :=
  ∀ s : State, (∀ x ∈ s.pending, x.wellFormed = true) →
    ∃ t, Host.Core.run Sys2Proof.core s.pending.length s = .next t ∧ t.pending = [] ∧
      t.events = s.events ++ eventsOf s.pending s.freeCount ∧
      (eventsOf s.pending s.freeCount).length = s.pending.length

/-- R55: presenting the same frame any number of times gives the same Reading each time. -/
def Obligations.RepeatedFrameGivesTheSameReading : Prop :=
  ∀ (s : State) (u : Nat) (w : Word) (now : Timestamp) (n : Nat),
    s.pending = List.replicate n { unit := u, frame := .word w, now := some now } →
    ∃ t e, Host.Core.run Sys2Proof.core n s = .next t ∧ t.events = s.events ++ List.replicate n e ∧
      e.unit = u ∧ e.frame = w ∧ e.now = now ∧ e.reading = decodeReading w now

/-- R41, R180: reordering a stimulus program reorders its events and changes no Reading. -/
def Obligations.ReorderingChangesNoReading : Prop :=
  ∀ (s : State) (l l' : List Stimulus), l.Perm l' → (∀ x ∈ l, x.wellFormed = true ∧ x.now.isSome = true) →
    ∃ t t' es es', Host.Core.run Sys2Proof.core l.length { s with pending := l } = .next t ∧
      Host.Core.run Sys2Proof.core l'.length { s with pending := l' } = .next t' ∧
      t.events = s.events ++ es ∧ t'.events = s.events ++ es' ∧ es.Perm es' ∧ es.length = l.length

/-- R180: an interleaving that keeps each instance's own order gives each instance the same Readings in the same order, and leaves
its ports the same. -/
def Obligations.InterleavingKeepsEachInstance : Prop :=
  ∀ (s : State) (l l' : List Stimulus), (∀ x ∈ l ++ l', x.wellFormed = true ∧ x.now.isSome = true) →
    (∀ k, l.filter (fun x => x.unit == k) = l'.filter (fun x => x.unit == k)) →
    ∃ t t' es es', Host.Core.run Sys2Proof.core l.length { s with pending := l } = .next t ∧
      Host.Core.run Sys2Proof.core l'.length { s with pending := l' } = .next t' ∧
      t.events = s.events ++ es ∧ t'.events = s.events ++ es' ∧
      ∀ k, es.filter (fun e => e.unit == k) = es'.filter (fun e => e.unit == k) ∧ t.portsOf k = t'.portsOf k

/-- The host's table words: from every state a table word is fetched, decoded as a DECODE and run by the very next step. -/
def Obligations.TableWordIsTheNextFrame : Prop :=
  ∀ (s : State) (w : Nat), ∃ t o, decodeTableWord 32 w = some (decodeWord (BitVec.ofNat 32 w)) ∧
    step (s.withFetchWord 32 w) = .next t ∧ t.pending = s.pending ∧
    t.events = s.events ++ [{ unit := s.active, frame := BitVec.ofNat 32 w, now := s.ports.now, reading := o }] ∧
    o = decodeReading (BitVec.ofNat 32 w) s.ports.now

/-! ## fault_classifier -/

/-- R100: CLASSIFY completes on every frame, drives `fault` with the code of the priority chain, and nothing else. -/
def Obligations.ClassifyDrivesFaultByPriority : Prop :=
  ∀ (f : Frame) (s : State), ∃ w t, w = encode (.classify f) ∧ exec (.classify f) s = .next t ∧ OnlyOutputs s t ∧
    t.ports.out = { s.ports.out with
      fault := (if w.getLsbD 15 = false then 0#3 else if w.getLsbD 31 then 1#3 else if w.getLsbD 30 then 2#3
                else if w.getLsbD 29 then 3#3 else 4#3) }

/-- R101: FAULT clear gives None whatever W[31:29] hold, and CLASSIFY does the same. -/
def Obligations.NoneCaseIsFaultFlagClear : Prop :=
  ∀ (f : Frame) (s : State), ∃ w t, w = encode (.classifyNone f) ∧ exec (.classifyNone f) s = .next t ∧ OnlyOutputs s t ∧
    (w &&& 0x00008000#32 = 0x00000000#32 ↔ w.getLsbD 15 = false) ∧
    (w.getLsbD 15 = false →
      t.ports.out = { s.ports.out with fault := 0#3 } ∧ exec (.classify f) s = .next t)

/-- R102: FAULT and OC set give OpenCircuit whatever SCG and SCV hold, and CLASSIFY does the same. -/
def Obligations.OcCaseWinsWhateverScgAndScv : Prop :=
  ∀ (f : Frame) (s : State), ∃ w t, w = encode (.classifyOc f) ∧ exec (.classifyOc f) s = .next t ∧ OnlyOutputs s t ∧
    (w &&& 0x80008000#32 = 0x80008000#32 ↔ w.getLsbD 15 = true ∧ w.getLsbD 31 = true) ∧
    (w.getLsbD 15 = true ∧ w.getLsbD 31 = true →
      t.ports.out = { s.ports.out with fault := 1#3 } ∧ exec (.classify f) s = .next t)

/-- R103: FAULT and SCG set, OC clear, give ShortToGround whatever SCV holds, and CLASSIFY does the same. -/
def Obligations.ScgCaseWinsOverScv : Prop :=
  ∀ (f : Frame) (s : State), ∃ w t, w = encode (.classifyScg f) ∧ exec (.classifyScg f) s = .next t ∧ OnlyOutputs s t ∧
    (w &&& 0xC0008000#32 = 0x40008000#32 ↔ w.getLsbD 15 = true ∧ w.getLsbD 31 = false ∧ w.getLsbD 30 = true) ∧
    (w.getLsbD 15 = true ∧ w.getLsbD 31 = false ∧ w.getLsbD 30 = true →
      t.ports.out = { s.ports.out with fault := 2#3 } ∧ exec (.classify f) s = .next t)

/-- R104: FAULT and SCV set, OC and SCG clear, give ShortToPower whatever the repeated SCV bit W[0] holds, and CLASSIFY does the same. -/
def Obligations.ScvCaseIgnoresRepeatedScv : Prop :=
  ∀ (f : Frame) (s : State), ∃ w t, w = encode (.classifyScv f) ∧ exec (.classifyScv f) s = .next t ∧ OnlyOutputs s t ∧
    (w &&& 0xE0008000#32 = 0x20008000#32 ↔ w.getLsbD 15 = true ∧ w.getLsbD 31 = false ∧ w.getLsbD 30 = false ∧ w.getLsbD 29 = true) ∧
    (w.getLsbD 15 = true ∧ w.getLsbD 31 = false ∧ w.getLsbD 30 = false ∧ w.getLsbD 29 = true →
      t.ports.out = { s.ports.out with fault := 3#3 } ∧ exec (.classify f) s = .next t)

/-- R105: FAULT set and no cause bit gives Unknown, whatever W[28] and W[0] hold, and CLASSIFY does the same. -/
def Obligations.UnknownCaseIsNoCauseBit : Prop :=
  ∀ (f : Frame) (s : State), ∃ w t, w = encode (.classifyUnknown f) ∧ exec (.classifyUnknown f) s = .next t ∧ OnlyOutputs s t ∧
    (w &&& 0xE0008000#32 = 0x00008000#32 ↔ w.getLsbD 15 = true ∧ w.getLsbD 31 = false ∧ w.getLsbD 30 = false ∧ w.getLsbD 29 = false) ∧
    (w.getLsbD 15 = true ∧ w.getLsbD 31 = false ∧ w.getLsbD 30 = false ∧ w.getLsbD 29 = false →
      t.ports.out = { s.ports.out with fault := 4#3 } ∧ exec (.classify f) s = .next t)

/-- The model's choice (log 2), read from the form `if … then fault <- …` of R101 to R105: a case operation on a frame its row does
not admit completes and drives nothing. -/
def Obligations.CaseOffItsFrameDrivesNothing : Prop :=
  ∀ (f : Frame) (s : State),
    (Instr.wellFormed (.classifyNone f) = false → exec (.classifyNone f) s = .next s) ∧
    (Instr.wellFormed (.classifyOc f) = false → exec (.classifyOc f) s = .next s) ∧
    (Instr.wellFormed (.classifyScg f) = false → exec (.classifyScg f) s = .next s) ∧
    (Instr.wellFormed (.classifyScv f) = false → exec (.classifyScv f) s = .next s) ∧
    (Instr.wellFormed (.classifyUnknown f) = false → exec (.classifyUnknown f) s = .next s)

/-- R79, R100: the five cases run in any order are CLASSIFY: they are disjoint and cover every frame. -/
def Obligations.FiveCasesInAnyOrderAreClassify : Prop :=
  ∀ (f : Frame) (s : State) (l : List Instr),
    l.Perm [.classifyNone f, .classifyOc f, .classifyScg f, .classifyScv f, .classifyUnknown f] →
    ∃ t, execAll l s = .next t ∧ exec (.classify f) s = .next t

/-- R108: CLASSIFY reads W[15], W[31], W[30], W[29] (each of them can change the classification) and no other bit. -/
def Obligations.ClassifyReadsFourBits : Prop :=
  (∀ (w w' : Word) (s : State), w.getLsbD 15 = w'.getLsbD 15 → w.getLsbD 31 = w'.getLsbD 31 → w.getLsbD 30 = w'.getLsbD 30 →
    w.getLsbD 29 = w'.getLsbD 29 →
    ∃ t, exec (.classify (frameOfWord w)) s = .next t ∧ exec (.classify (frameOfWord w')) s = .next t) ∧
  (∀ b, b = 15 ∨ b = 29 ∨ b = 30 ∨ b = 31 → ∃ w : Word, ∀ s : State, ∃ t u,
    exec (.classify (frameOfWord w)) s = .next t ∧ exec (.classify (frameOfWord (w ^^^ (1#32 <<< b)))) s = .next u ∧
    t.ports.out.fault ≠ u.ports.out.fault)

/-- R80: the codes of the five FaultKinds; 5, 6 and 7 are no FaultKind's, no operation drives them and no step records them. -/
def Obligations.FaultCodesAreZeroToFour : Prop :=
  FaultKind.none.code = 0#3 ∧ FaultKind.openCircuit.code = 1#3 ∧ FaultKind.shortToGround.code = 2#3 ∧
  FaultKind.shortToPower.code = 3#3 ∧ FaultKind.unknown.code = 4#3 ∧
  (∀ c : BitVec 3, faultKindOfCode c = none ↔ 5 ≤ c.toNat) ∧ (∀ k : FaultKind, faultKindOfCode k.code = some k) ∧
  (∀ (i : Instr) (s : State), ∃ t, exec i s = .next t ∧
    (t.ports.out.fault = s.ports.out.fault ∨ t.ports.out.fault.toNat ≤ 4)) ∧
  ∀ s t : State, step s = .next t → ∀ e ∈ t.events, e ∈ s.events ∨ e.reading.fault.toNat ≤ 4

/-- R107: the message of each FaultKind, a function of the FaultKind alone, as a consumer derives it from `fault`. -/
def Obligations.MessagesAreTheTableOfTexts : Prop :=
  ∀ o : Outputs,
    (o.fault = FaultKind.none.code → ∃ r, readingOf o = some r ∧ r.fault = .none ∧ r.message = "") ∧
    (o.fault = FaultKind.openCircuit.code →
      ∃ r, readingOf o = some r ∧ r.fault = .openCircuit ∧ r.message = "Open circuit to thermometer probe") ∧
    (o.fault = FaultKind.shortToGround.code →
      ∃ r, readingOf o = some r ∧ r.fault = .shortToGround ∧ r.message = "Thermometer probe shorted to ground") ∧
    (o.fault = FaultKind.shortToPower.code →
      ∃ r, readingOf o = some r ∧ r.fault = .shortToPower ∧ r.message = "Thermometer probe shorted to power") ∧
    (o.fault = FaultKind.unknown.code →
      ∃ r, readingOf o = some r ∧ r.fault = .unknown ∧ r.message = "Unknown fault (fault flag set, no cause bit)")

/-! ## fixed_point_extractor -/

/-- R124: signed_N maps the 2^N words one to one onto -2^(N-1) .. 2^(N-1)-1, and is the sign-extended value. -/
def Obligations.SignedWordsAreTwosComplement : Prop :=
  ∀ n : Nat, 1 ≤ n →
    (∀ u : BitVec n, (u.toNat < 2 ^ (n - 1) → signedN u = u.toNat) ∧
      (2 ^ (n - 1) ≤ u.toNat → signedN u = (u.toNat : Int) - 2 ^ n) ∧
      -(2 ^ (n - 1)) ≤ signedN u ∧ signedN u < 2 ^ (n - 1) ∧
      ∀ m, n ≤ m → signedN (u.signExtend m) = signedN u) ∧
    (∀ u v : BitVec n, signedN u = signedN v → u = v) ∧
    (∀ r : Int, -(2 ^ (n - 1)) ≤ r → r < 2 ^ (n - 1) → ∃ u : BitVec n, signedN u = r)

/-- R120: for every parameter set it is defined for, EXTRACT takes P[S:lo], reconstructs the sign by subtracting 2^N, drives the
result as an N-bit word and scales it exactly. -/
def Obligations.ExtractReconstructsThenScales : Prop :=
  ∀ (p : BitVec 16) (n s : Nat) (res : Rat), 1 ≤ n → n ≤ 16 → s ≤ 15 → n ≤ s + 1 →
    ∃ (raw : BitVec n) (r : Int), extractGeneric p n s res = some (raw, (r : Rat) * res) ∧ raw.toInt = r ∧
      r = (if p.getLsbD s then ((p.toNat / 2 ^ (s + 1 - n) % 2 ^ n : Nat) : Int) - 2 ^ n
           else (p.toNat / 2 ^ (s + 1 - n) % 2 ^ n : Nat))

/-- R121 lets a model refuse every other parameter set; this one does (log 21), and the block's two sets are defined. -/
def Obligations.ExtractRefusesOtherParameters : Prop :=
  (∀ (p : BitVec 16) (n s : Nat) (res : Rat), ¬(1 ≤ n ∧ n ≤ 16 ∧ s ≤ 15 ∧ n ≤ s + 1) → extractGeneric p n s res = none) ∧
  extractDefined 12 11 = true ∧ extractDefined 14 14 = true

/-- R122: EXTRACT_INT completes on every frame, drives `int_raw` with signed_12(W[27:16]), and nothing else. -/
def Obligations.ExtractIntDrivesSigned12 : Prop :=
  ∀ (f : Frame) (s : State), ∃ w t r, w = encode (.extractInt f) ∧ exec (.extractInt f) s = .next t ∧ OnlyOutputs s t ∧
    t.ports.out = { s.ports.out with intRaw := r } ∧
    r.toInt = (if w.getLsbD 27 then ((w.extractLsb' 16 12).toNat : Int) - 4096 else (w.extractLsb' 16 12).toNat) ∧
    internalTempC t.ports.out = (r.toInt : Rat) * (1 / 16)

/-- R123: EXTRACT_TC completes on every frame, drives `tc_raw` with signed_14(W[14:1]), and nothing else. -/
def Obligations.ExtractTcDrivesSigned14 : Prop :=
  ∀ (f : Frame) (s : State), ∃ w t r, w = encode (.extractTc f) ∧ exec (.extractTc f) s = .next t ∧ OnlyOutputs s t ∧
    t.ports.out = { s.ports.out with tcRaw := r } ∧
    r.toInt = (if w.getLsbD 14 then ((w.extractLsb' 1 14).toNat : Int) - 16384 else (w.extractLsb' 1 14).toNat) ∧
    thermocoupleTempC t.ports.out = (r.toInt : Rat) * (1 / 4)

/-- R129: EXTRACT_INT reads only W[27:16] and EXTRACT_TC only W[14:1]; the fields share no bit. -/
def Obligations.ExtractorsReadOnlyTheirFields : Prop :=
  ∀ (w w' : Word) (s : State),
    ((∀ i, 16 ≤ i → i ≤ 27 → w.getLsbD i = w'.getLsbD i) →
      ∃ t, exec (.extractInt (frameOfWord w)) s = .next t ∧ exec (.extractInt (frameOfWord w')) s = .next t) ∧
    ((∀ i, 1 ≤ i → i ≤ 14 → w.getLsbD i = w'.getLsbD i) →
      ∃ t, exec (.extractTc (frameOfWord w)) s = .next t ∧ exec (.extractTc (frameOfWord w')) s = .next t)

/-- R81: the °C values are the raw words times 0.0625 and 0.25, exactly, and lie in the ranges of the table. -/
def Obligations.TemperaturesAreExactAndInRange : Prop :=
  ∀ o : Outputs,
    internalTempC o = (o.intRaw.toInt : Rat) * (1 / 16) ∧ -2048 ≤ o.intRaw.toInt ∧ o.intRaw.toInt ≤ 2047 ∧
    -128 ≤ internalTempC o ∧ internalTempC o ≤ 2047 / 16 ∧
    thermocoupleTempC o = (o.tcRaw.toInt : Rat) * (1 / 4) ∧ -8192 ≤ o.tcRaw.toInt ∧ o.tcRaw.toInt ≤ 8191 ∧
    -2048 ≤ thermocoupleTempC o ∧ thermocoupleTempC o ≤ 8191 / 4

/-- R128: every temperature on a field's grid and in its range comes back exactly: the encoder's frame, presented to the machine in
any state, gives a Reading with that temperature and the fault None. -/
def Obligations.EncodedTemperaturesComeBackExactly : Prop :=
  (∀ (k : Int), -2048 ≤ k → k ≤ 2047 → ∀ (s : State) (u : Nat) (now : Timestamp) (rest : List Stimulus),
    ∃ bs w t o r, encInt ((k : Rat) / 16) = some bs ∧ frameWord bs = .ok w ∧
      step { s with pending := { unit := u, frame := .bytes bs, now := some now } :: rest } = .next t ∧
      t.events = s.events ++ [{ unit := u, frame := w, now := now, reading := o }] ∧ readingOf o = some r ∧
      r.internalTempC = (k : Rat) / 16 ∧ r.thermocoupleTempC = 0 ∧ r.fault = .none) ∧
  (∀ (k : Int), -8192 ≤ k → k ≤ 8191 → ∀ (s : State) (u : Nat) (now : Timestamp) (rest : List Stimulus),
    ∃ bs w t o r, encTc ((k : Rat) / 4) = some bs ∧ frameWord bs = .ok w ∧
      step { s with pending := { unit := u, frame := .bytes bs, now := some now } :: rest } = .next t ∧
      t.events = s.events ++ [{ unit := u, frame := w, now := now, reading := o }] ∧ readingOf o = some r ∧
      r.thermocoupleTempC = (k : Rat) / 4 ∧ r.internalTempC = 0 ∧ r.fault = .none)

/-- R84, D25, X14: the encoders are defined exactly on the grid and in the range of their field. -/
def Obligations.EncodersAreDefinedOnTheGridOnly : Prop :=
  ∀ t : Rat,
    ((∃ bs, encInt t = some bs) ↔ ∃ k : Int, t = (k : Rat) / 16 ∧ -2048 ≤ k ∧ k ≤ 2047) ∧
    ((∃ bs, encTc t = some bs) ↔ ∃ k : Int, t = (k : Rat) / 4 ∧ -8192 ≤ k ∧ k ≤ 8191)

/-! ## The frame decoder -/

/-- R150: DECODE completes on every frame whatever its bits, drives all four output ports, and nothing else; the Reading a consumer
sees carries the exact °C values, the FaultKind, its message and the timestamp. -/
def Obligations.DecodeDrivesTheWholeReading : Prop :=
  ∀ (f : Frame) (s : State), ∃ w t a b k, w = encode (.decode f) ∧ exec (.decode f) s = .next t ∧ OnlyOutputs s t ∧
    a.toInt = (if w.getLsbD 27 then ((w.extractLsb' 16 12).toNat : Int) - 4096 else (w.extractLsb' 16 12).toNat) ∧
    b.toInt = (if w.getLsbD 14 then ((w.extractLsb' 1 14).toNat : Int) - 16384 else (w.extractLsb' 1 14).toNat) ∧
    k = (if w.getLsbD 15 = false then FaultKind.none else if w.getLsbD 31 then .openCircuit
         else if w.getLsbD 30 then .shortToGround else if w.getLsbD 29 then .shortToPower else .unknown) ∧
    t.ports.out = { intRaw := a, tcRaw := b, fault := k.code, timestamp := s.ports.now } ∧
    readingOf t.ports.out = some
      { internalTempC := (a.toInt : Rat) * (1 / 16), thermocoupleTempC := (b.toInt : Rat) * (1 / 4), fault := k,
        message := k.message, timestamp := s.ports.now }

/-- R157: `fault` depends on W[31:29] and W[15], `int_raw` on W[27:16], `tc_raw` on W[14:1], no output reads another, and the three
sub-operations in any order, with the timestamp beside them, are DECODE. -/
def Obligations.DecodeIsItsPartsInAnyOrder : Prop :=
  (∀ (w w' : Word) (s s' : State), ∃ t t', exec (.decode (frameOfWord w)) s = .next t ∧
    exec (.decode (frameOfWord w')) s' = .next t' ∧
    ((∀ i, i = 15 ∨ 29 ≤ i ∧ i ≤ 31 → w.getLsbD i = w'.getLsbD i) → t.ports.out.fault = t'.ports.out.fault) ∧
    ((∀ i, 16 ≤ i ∧ i ≤ 27 → w.getLsbD i = w'.getLsbD i) → t.ports.out.intRaw = t'.ports.out.intRaw) ∧
    ((∀ i, 1 ≤ i ∧ i ≤ 14 → w.getLsbD i = w'.getLsbD i) → t.ports.out.tcRaw = t'.ports.out.tcRaw)) ∧
  (∀ (f : Frame) (s : State) (l : List Instr), l.Perm [.classify f, .extractInt f, .extractTc f] →
    ∃ t u, execAll l s = .next t ∧ exec (.decode f) s = .next u ∧
      u.ports = { t.ports with out := { t.ports.out with timestamp := s.ports.now } } ∧
      (∀ k, k ≠ s.active → u.portsOf k = t.portsOf k) ∧ u.active = t.active ∧ u.pending = t.pending ∧
      u.events = t.events ∧ u.freeCount = t.freeCount)

/-- R156: two frames that differ only in the reserved bit and the repeated SCV bit give equal Readings. -/
def Obligations.ReservedAndRepeatedBitsAreIgnored : Prop :=
  ∀ (w w' : Word) (s : State), (w ^^^ w') &&& 0xEFFFFFFE#32 = 0#32 →
    ∃ t, exec (.decode (frameOfWord w)) s = .next t ∧ exec (.decode (frameOfWord w')) s = .next t

/-- R155: the Reading's fault is None exactly when W[15] = 0. -/
def Obligations.FaultNoneExactlyWhenFlagClear : Prop :=
  ∀ (f : Frame) (s : State), ∃ t r, exec (.decode f) s = .next t ∧ readingOf t.ports.out = some r ∧
    (r.fault = .none ↔ (encode (.decode f)).getLsbD 15 = false)

/-- R158: `timestamp` is `now` unchanged, and no other output depends on `now`. -/
def Obligations.OnlyTimestampDependsOnNow : Prop :=
  ∀ (f : Frame) (s : State) (now : Timestamp), ∃ t u,
    exec (.decode f) s = .next t ∧ exec (.decode f) (s.applyInputs s.active s.ports.frame now) = .next u ∧
    t.ports.out.timestamp = s.ports.now ∧ u.ports.out.timestamp = now ∧
    u.ports.out = { t.ports.out with timestamp := now }

/-- R170: no operation of the block stops, on any operand and in any state; each one differs from the state it starts in at most in
the active instance's output ports. -/
def Obligations.NoOperationStops : Prop :=
  ∀ (i : Instr) (s : State), ∃ t, exec i s = .next t ∧ OnlyOutputs s t
end

