-- ==== Sys2Proof/Laws/Operands.lean ====
section
/-! SUPPORT. The extractor's arithmetic: signed_N is the two's-complement value, and the raw port is the field itself. -/

namespace Sys2Proof.Machine

/-- signed_N is the two's-complement value of the word (R10, R124). -/
theorem signedN_eq_toInt {n : Nat} (u : BitVec n) : signedN u = u.toInt := by
  unfold signedN
  rw [BitVec.toInt_eq_msb_cond, BitVec.msb_eq_getLsbD_last]
  split <;> simp

/-- The raw port carries the raw word's own bits (R120). -/
theorem extract_eq_rawWord (p : BitVec 16) (n s : Nat) : extract p n s = rawWord p n s := by
  unfold extract
  rw [signedN_eq_toInt, BitVec.ofInt_toInt]

/-- `u_int`'s raw word is W[27:16] (R122). -/
theorem extractInt_eq_field (w : Word) : extractInt w = w.extractLsb' 16 12 := by
  unfold extractInt
  rw [extract_eq_rawWord]
  apply BitVec.eq_of_getLsbD_eq
  intro i hi
  have : i < 16 := by omega
  simp [rawWord, intPair, hi, this]

/-- `u_tc`'s raw word is W[14:1] (R123). -/
theorem extractTc_eq_field (w : Word) : extractTc w = w.extractLsb' 1 14 := by
  unfold extractTc
  rw [extract_eq_rawWord]
  apply BitVec.eq_of_getLsbD_eq
  intro i hi
  simp [rawWord, tcPair, hi]

end Sys2Proof.Machine
end

