-- ==== Sys2Proof/Laws/Ports.lean ====
section
/-! SUPPORT. The list of instances: reading after setting, and its canonical form. -/

namespace Sys2Proof.Machine

/-- Setting instance k's ports is seen in instance k and in no other (R180). -/
theorem lookupPorts_insertPorts (l : List (Nat × Ports)) (k : Nat) (q : Ports) (j : Nat) :
    lookupPorts (insertPorts l k q) j = if j = k then q else lookupPorts l j := by
  induction l with
  | nil => rfl
  | cons a rest ih =>
    obtain ⟨i, p⟩ := a
    unfold insertPorts
    split
    · rfl
    split
    · subst ‹k = i›
      simp only [lookupPorts]
      split <;> rfl
    · simp only [lookupPorts, ih]
      split
      · rw [if_neg (by omega)]
      · rfl

/-- Every entry of the list after a set is the one set or an earlier one. -/
theorem mem_insertPorts {l : List (Nat × Ports)} {k : Nat} {q : Ports} {e : Nat × Ports}
    (h : e ∈ insertPorts l k q) : e = (k, q) ∨ e ∈ l := by
  induction l with
  | nil => simpa [insertPorts] using h
  | cons a rest ih =>
    obtain ⟨i, p⟩ := a
    unfold insertPorts at h
    split at h
    · simpa using h
    split at h
    · rcases List.mem_cons.mp h with h | h
      · exact .inl h
      · exact .inr (List.mem_cons_of_mem _ h)
    · rcases List.mem_cons.mp h with h | h
      · exact .inr (h ▸ List.mem_cons_self)
      · exact (ih h).imp_right (List.mem_cons_of_mem _)

/-- Setting ports keeps the canonical form. -/
theorem insertPorts_wf {l : List (Nat × Ports)} (h : InstancesWf l) (k : Nat) (q : Ports) :
    InstancesWf (insertPorts l k q) := by
  induction l with
  | nil => simp [insertPorts, InstancesWf]
  | cons a rest ih =>
    obtain ⟨i, p⟩ := a
    obtain ⟨ha, hr⟩ := List.pairwise_cons.mp h
    unfold insertPorts
    split
    · refine List.pairwise_cons.mpr ⟨fun b hb => ?_, h⟩
      rcases List.mem_cons.mp hb with rfl | hb
      · assumption
      · exact Nat.lt_trans ‹k < i› (ha b hb)
    split
    · subst ‹k = i›
      exact List.pairwise_cons.mpr ⟨ha, hr⟩
    · refine List.pairwise_cons.mpr ⟨fun b hb => ?_, ih hr⟩
      rcases mem_insertPorts hb with rfl | hb
      · show i < k
        omega
      · exact ha b hb

end Sys2Proof.Machine
end

