-- ==== Sys2Proof/Laws/State.lean ====
section
/-! SUPPORT. One lemma per field of the state per update, each true by rfl, and what each update does to the ports. -/

namespace Sys2Proof.Machine

/-! ## Updates of one instance's ports -/

@[simp] theorem Ports.withInputs_frame (p : Ports) (w : Word) (n : Timestamp) : (p.withInputs w n).frame = w := rfl
@[simp] theorem Ports.withInputs_now (p : Ports) (w : Word) (n : Timestamp) : (p.withInputs w n).now = n := rfl
@[simp] theorem Ports.withInputs_out (p : Ports) (w : Word) (n : Timestamp) : (p.withInputs w n).out = p.out := rfl
@[simp] theorem Ports.withOut_frame (p : Ports) (o : Outputs) : (p.withOut o).frame = p.frame := rfl
@[simp] theorem Ports.withOut_now (p : Ports) (o : Outputs) : (p.withOut o).now = p.now := rfl
@[simp] theorem Ports.withOut_out (p : Ports) (o : Outputs) : (p.withOut o).out = o := rfl

/-! ## setPorts -/

@[simp] theorem State.setPorts_active (s : State) (k : Nat) (p : Ports) : (s.setPorts k p).active = s.active := rfl
@[simp] theorem State.setPorts_pending (s : State) (k : Nat) (p : Ports) : (s.setPorts k p).pending = s.pending := rfl
@[simp] theorem State.setPorts_events (s : State) (k : Nat) (p : Ports) : (s.setPorts k p).events = s.events := rfl
@[simp] theorem State.setPorts_freeCount (s : State) (k : Nat) (p : Ports) : (s.setPorts k p).freeCount = s.freeCount := rfl
@[simp] theorem State.setPorts_instances (s : State) (k : Nat) (p : Ports) :
    (s.setPorts k p).instances = insertPorts s.instances k p := rfl

theorem State.setPorts_portsOf (s : State) (k : Nat) (p : Ports) (j : Nat) :
    (s.setPorts k p).portsOf j = if j = k then p else s.portsOf j :=
  lookupPorts_insertPorts s.instances k p j

/-! ## drive -/

@[simp] theorem State.drive_active (s : State) (g : Outputs → Outputs) : (s.drive g).active = s.active := rfl
@[simp] theorem State.drive_pending (s : State) (g : Outputs → Outputs) : (s.drive g).pending = s.pending := rfl
@[simp] theorem State.drive_events (s : State) (g : Outputs → Outputs) : (s.drive g).events = s.events := rfl
@[simp] theorem State.drive_freeCount (s : State) (g : Outputs → Outputs) : (s.drive g).freeCount = s.freeCount := rfl
@[simp] theorem State.drive_instances (s : State) (g : Outputs → Outputs) :
    (s.drive g).instances = insertPorts s.instances s.active (s.ports.withOut (g s.ports.out)) := rfl

/-- What `drive` does to the ports: the active instance's outputs, and nothing else. -/
theorem State.drive_portsOf (s : State) (g : Outputs → Outputs) (k : Nat) :
    (s.drive g).portsOf k = if k = s.active then s.ports.withOut (g s.ports.out) else s.portsOf k :=
  s.setPorts_portsOf s.active _ k

theorem State.drive_ports (s : State) (g : Outputs → Outputs) :
    (s.drive g).ports = s.ports.withOut (g s.ports.out) := by
  show (s.drive g).portsOf s.active = _
  rw [State.drive_portsOf, if_pos rfl]

/-! ## applyInputs -/

@[simp] theorem State.applyInputs_active (s : State) (k : Nat) (w : Word) (n : Timestamp) :
    (s.applyInputs k w n).active = k := rfl
@[simp] theorem State.applyInputs_pending (s : State) (k : Nat) (w : Word) (n : Timestamp) :
    (s.applyInputs k w n).pending = s.pending := rfl
@[simp] theorem State.applyInputs_events (s : State) (k : Nat) (w : Word) (n : Timestamp) :
    (s.applyInputs k w n).events = s.events := rfl
@[simp] theorem State.applyInputs_freeCount (s : State) (k : Nat) (w : Word) (n : Timestamp) :
    (s.applyInputs k w n).freeCount = s.freeCount := rfl
@[simp] theorem State.applyInputs_instances (s : State) (k : Nat) (w : Word) (n : Timestamp) :
    (s.applyInputs k w n).instances = insertPorts s.instances k ((s.portsOf k).withInputs w n) := rfl

theorem State.applyInputs_portsOf (s : State) (k : Nat) (w : Word) (n : Timestamp) (j : Nat) :
    (s.applyInputs k w n).portsOf j = if j = k then (s.portsOf k).withInputs w n else s.portsOf j :=
  lookupPorts_insertPorts s.instances k _ j

/-! ## takeReading and collect -/

@[simp] theorem State.takeReading_active (s : State) : s.takeReading.active = s.active := rfl
@[simp] theorem State.takeReading_pending (s : State) : s.takeReading.pending = s.pending := rfl
@[simp] theorem State.takeReading_freeCount (s : State) : s.takeReading.freeCount = s.freeCount := rfl
@[simp] theorem State.takeReading_instances (s : State) : s.takeReading.instances = s.instances := rfl
@[simp] theorem State.takeReading_portsOf (s : State) (k : Nat) : s.takeReading.portsOf k = s.portsOf k := rfl
@[simp] theorem State.takeReading_events (s : State) :
    s.takeReading.events =
      s.events ++ [{ unit := s.active, frame := s.ports.frame, now := s.ports.now, reading := s.ports.out }] := rfl

@[simp] theorem State.collect_true (s : State) : s.collect true = s.takeReading := rfl
@[simp] theorem State.collect_false (s : State) : s.collect false = s := rfl

/-! ## dequeue -/

@[simp] theorem State.dequeue_active (s : State) (l : List Stimulus) (n : Nat) : (s.dequeue l n).active = s.active := rfl
@[simp] theorem State.dequeue_pending (s : State) (l : List Stimulus) (n : Nat) : (s.dequeue l n).pending = l := rfl
@[simp] theorem State.dequeue_events (s : State) (l : List Stimulus) (n : Nat) : (s.dequeue l n).events = s.events := rfl
@[simp] theorem State.dequeue_freeCount (s : State) (l : List Stimulus) (n : Nat) : (s.dequeue l n).freeCount = n := rfl
@[simp] theorem State.dequeue_instances (s : State) (l : List Stimulus) (n : Nat) :
    (s.dequeue l n).instances = s.instances := rfl
@[simp] theorem State.dequeue_portsOf (s : State) (l : List Stimulus) (n k : Nat) :
    (s.dequeue l n).portsOf k = s.portsOf k := rfl

/-! ## collect, field by field: it only ever appends an event -/

@[simp] theorem State.collect_active (s : State) (b : Bool) : (s.collect b).active = s.active := by cases b <;> rfl
@[simp] theorem State.collect_pending (s : State) (b : Bool) : (s.collect b).pending = s.pending := by cases b <;> rfl
@[simp] theorem State.collect_freeCount (s : State) (b : Bool) : (s.collect b).freeCount = s.freeCount := by cases b <;> rfl
@[simp] theorem State.collect_instances (s : State) (b : Bool) : (s.collect b).instances = s.instances := by cases b <;> rfl
@[simp] theorem State.collect_portsOf (s : State) (b : Bool) (k : Nat) : (s.collect b).portsOf k = s.portsOf k := by
  cases b <;> rfl

/-! ## reset -/

/-- An instance the host has presented nothing to has the idle ports (log 5). -/
@[simp] theorem State.reset_portsOf (k : Nat) : State.reset.portsOf k = Ports.idle := rfl

end Sys2Proof.Machine
end

