-- ==== Sys2Proof/Laws/Exec.lean ====
section
/-! SUPPORT. What driving output ports can do, said once, and what each operation answers. -/

namespace Sys2Proof.Machine

/-- Driving output ports touches nothing but the active instance's output ports. -/
theorem OnlyOutputs.drive (s : State) (g : Outputs → Outputs) : OnlyOutputs s (s.drive g) where
  active := rfl
  pending := rfl
  events := rfl
  freeCount := rfl
  frame := by rw [State.drive_ports, Ports.withOut_frame]
  now := by rw [State.drive_ports, Ports.withOut_now]
  others k hk := by rw [State.drive_portsOf, if_neg hk]

theorem OnlyOutputs.refl (s : State) : OnlyOutputs s s :=
  ⟨rfl, rfl, rfl, rfl, rfl, rfl, fun _ _ => rfl⟩

theorem OnlyOutputs.trans {s t u : State} (h : OnlyOutputs s t) (g : OnlyOutputs t u) : OnlyOutputs s u where
  active := g.active.trans h.active
  pending := g.pending.trans h.pending
  events := g.events.trans h.events
  freeCount := g.freeCount.trans h.freeCount
  frame := g.frame.trans h.frame
  now := g.now.trans h.now
  others k hk := (g.others k (h.active ▸ hk)).trans (h.others k hk)

/-! ## What each drive leaves on the active instance's outputs -/

@[simp] theorem State.driveFault_out (s : State) (v : BitVec 3) :
    (s.driveFault v).ports.out = { s.ports.out with fault := v } := by
  simp only [State.driveFault, State.drive_ports, Ports.withOut_out]

@[simp] theorem State.driveIntRaw_out (s : State) (v : BitVec 12) :
    (s.driveIntRaw v).ports.out = { s.ports.out with intRaw := v } := by
  simp only [State.driveIntRaw, State.drive_ports, Ports.withOut_out]

@[simp] theorem State.driveTcRaw_out (s : State) (v : BitVec 14) :
    (s.driveTcRaw v).ports.out = { s.ports.out with tcRaw := v } := by
  simp only [State.driveTcRaw, State.drive_ports, Ports.withOut_out]

@[simp] theorem State.driveTimestamp_out (s : State) (v : Timestamp) :
    (s.driveTimestamp v).ports.out = { s.ports.out with timestamp := v } := by
  simp only [State.driveTimestamp, State.drive_ports, Ports.withOut_out]

/-! ## What each operation answers -/

/-- DECODE's next state: the four output ports as R150 says, and nothing else touched. -/
theorem execDecode_next (f : Frame) (s : State) :
    ∃ t, exec (.decode f) s = .next t ∧ t.ports.out = decodeReading f.word s.ports.now ∧ OnlyOutputs s t := by
  refine ⟨_, rfl, ?_, ?_⟩
  · simp [decodeReading, frameOfWord_word]
  · exact (((OnlyOutputs.drive _ _).trans (.drive _ _)).trans (.drive _ _)).trans (.drive _ _)

/-- A case operation either drives its code or leaves the state as it is (R101 to R105). -/
theorem driveCase_cases (c : Bool) (k : FaultKind) (s : State) :
    (c = true ∧ driveCase c k s = s.driveFault k.code) ∨ (c = false ∧ driveCase c k s = s) := by
  cases c <;> simp [driveCase]

/-- A case operation touches nothing but the active instance's `fault`. -/
theorem OnlyOutputs.driveCase (c : Bool) (k : FaultKind) (s : State) : OnlyOutputs s (driveCase c k s) := by
  rcases driveCase_cases c k s with ⟨_, h⟩ | ⟨_, h⟩ <;> rw [h]
  · exact .drive _ _
  · exact .refl s

end Sys2Proof.Machine
end

