-- ==== Sys2Proof/Laws/Step.lean ====
section
/-! SUPPORT. What one step can do, said once: the host's move, then a DECODE of the presented inputs, then the Reading is taken. -/

namespace Sys2Proof.Machine

/-- The block always fetches a DECODE of its `frame` port: no step is refused there. -/
theorem State.fetch_eq (s : State) : s.fetch = .ok (decodeWord s.ports.frame) := decode_bytesOfWord s.ports.frame

/-- The three things the host can do at a step. -/
theorem State.presentNext_cases (s : State) :
    (s.pending = [] ∧ s.presentNext = .ok s) ∨
    (∃ x rest, s.pending = x :: rest ∧ x.bytes.length ≠ 4 ∧ s.presentNext = .error (.frameLength x.bytes.length)) ∨
    (∃ x rest w, s.pending = x :: rest ∧ frameWord x.bytes = .ok w ∧
      s.presentNext =
        .ok ((s.applyInputs x.unit w (timestampOf x s.freeCount)).dequeue rest (omittedAfter x s.freeCount))) := by
  cases hp : s.pending with
  | nil => exact .inl ⟨rfl, by simp only [State.presentNext, hp]⟩
  | cons x rest =>
    by_cases hl : x.bytes.length = 4
    · obtain ⟨w, hw⟩ := frameWord_of_length hl
      exact .inr (.inr ⟨x, rest, w, rfl, hw, by simp only [State.presentNext, hp, hw]⟩)
    · exact .inr (.inl ⟨x, rest, rfl, hl, by simp only [State.presentNext, hp, frameWord_of_length_ne hl]⟩)

/-- A step whose host move succeeds drives the presented instance's outputs with DECODE of its inputs, touches nothing else, and
takes the Reading when a stimulus was presented. -/
theorem step_of_presentNext {s t : State} (h : s.presentNext = .ok t) :
    ∃ u, step s = .next (u.collect (!s.pending.isEmpty)) ∧ u.ports.out = decodeReading t.ports.frame t.ports.now ∧
      OnlyOutputs t u := by
  obtain ⟨u, hu, ho, hf⟩ := execDecode_next (frameOfWord t.ports.frame) t
  refine ⟨u, ?_, ?_, hf⟩
  · simp only [step, h, State.fetch_eq, decodeWord, hu, finishStep]
  · rw [ho, word_frameOfWord]

/-- A run of k + 1 steps whose first step answers t is the run of k steps from t. -/
theorem core_run_succ {s t : State} (h : step s = .next t) (k : Nat) :
    Host.Core.run Sys2Proof.core (k + 1) s = Host.Core.run Sys2Proof.core k t := by
  have hc : Sys2Proof.core.step s = .next t := h
  simp only [Host.Core.run, hc]

end Sys2Proof.Machine
end

