-- ==== Sys2Proof/Tests/Slice0.lean ====
section
/-! SUPPORT. The model's own tests: the well-formedness smoke, frames decoded from words written out from R71, one step or one
operation against the vectors of 95_test_vectors.md, and a witness for the hypotheses of each statement. -/

namespace Sys2Proof.Tests

open Sys2Proof Sys2Proof.Machine

/-! ## Well-formedness smoke: each check refuses an ill-formed term -/

/-- A frame with the four bits CLASSIFY reads and every other bit clear. -/
def fourBits (flag oc scg scv : Bool) : Frame :=
  { oc := oc, scg := scg, scv := scv, rsv := false, intWord := 0#12, faultFlag := flag, tcWord := 0#14, scvRep := false }

theorem smoke_none_needs_flag_clear : Instr.wellFormed (.classifyNone (fourBits true false false false)) = false := by decide
theorem smoke_oc_needs_flag : Instr.wellFormed (.classifyOc (fourBits false true false false)) = false := by decide
theorem smoke_oc_needs_oc : Instr.wellFormed (.classifyOc (fourBits true false true true)) = false := by decide
theorem smoke_scg_needs_flag : Instr.wellFormed (.classifyScg (fourBits false false true false)) = false := by decide
theorem smoke_scg_needs_oc_clear : Instr.wellFormed (.classifyScg (fourBits true true true false)) = false := by decide
theorem smoke_scg_needs_scg : Instr.wellFormed (.classifyScg (fourBits true false false true)) = false := by decide
theorem smoke_scv_needs_flag : Instr.wellFormed (.classifyScv (fourBits false false false true)) = false := by decide
theorem smoke_scv_needs_oc_clear : Instr.wellFormed (.classifyScv (fourBits true true false true)) = false := by decide
theorem smoke_scv_needs_scg_clear : Instr.wellFormed (.classifyScv (fourBits true false true true)) = false := by decide
theorem smoke_scv_needs_scv : Instr.wellFormed (.classifyScv (fourBits true false false false)) = false := by decide
theorem smoke_unknown_needs_flag : Instr.wellFormed (.classifyUnknown (fourBits false false false false)) = false := by decide
theorem smoke_unknown_needs_oc_clear : Instr.wellFormed (.classifyUnknown (fourBits true true false false)) = false := by decide
theorem smoke_unknown_needs_scg_clear : Instr.wellFormed (.classifyUnknown (fourBits true false true false)) = false := by decide
theorem smoke_unknown_needs_scv_clear : Instr.wellFormed (.classifyUnknown (fourBits true false false true)) = false := by decide
theorem smoke_three_bytes :
    Stimulus.wellFormed { unit := 0, frame := .bytes [0x00#8, 0x50#8, 0x02#8], now := some 0 } = false := by decide
theorem smoke_five_bytes :
    Stimulus.wellFormed { unit := 0, frame := .bytes [0x00#8, 0x50#8, 0x02#8, 0x00#8, 0x00#8], now := some 0 } = false := by decide

/-! ## Decoding, from words written out from R71's table -/

/-- V-S1's frame, W = 0000 0000 0101 0000 0000 0010 0000 0000: int_word 000001010000, tc_word 00000100000000. -/
theorem test_decode_s1 : decode [0x00#8, 0x50#8, 0x02#8, 0x00#8] = .ok (.decode
    { oc := false, scg := false, scv := false, rsv := false, intWord := 0b000001010000#12, faultFlag := false,
      tcWord := 0b00000100000000#14, scvRep := false }) := by decide

/-- W = 0011 1000 0000 0001 1100 0000 0000 0011: SCV, rsv, the ends of both fields, FAULT and the repeated SCV. -/
theorem test_decode_field_ends : decode [0x38#8, 0x01#8, 0xC0#8, 0x03#8] = .ok (.decode
    { oc := false, scg := false, scv := true, rsv := true, intWord := 0b100000000001#12, faultFlag := true,
      tcWord := 0b10000000000001#14, scvRep := true }) := by decide

/-- The same table, read the other way. -/
theorem test_encode_field_ends : encode (.decode
    { oc := false, scg := false, scv := true, rsv := true, intWord := 0b100000000001#12, faultFlag := true,
      tcWord := 0b10000000000001#14, scvRep := true }) = 0x3801C003#32 := by decide

theorem test_decode_refuses_three_bytes : decode [0x00#8, 0x50#8, 0x02#8] = .error (.frameLength 3) := by decide
theorem test_decode_refuses_empty : decode [] = .error (.frameLength 0) := by decide

/-- V-F7 (SCG beats SCV) as a CLASSIFY word, 0x60008000. -/
theorem test_row_classify : readAsRow 1 0x60008000#32 = some (.classify (fourBits true false true true)) := by decide
/-- V-F2, 0xE0000000. -/
theorem test_row_none : readAsRow 2 0xE0000000#32 = some (.classifyNone (fourBits false true true true)) := by decide
/-- V-F8, 0xA0008000. -/
theorem test_row_oc : readAsRow 3 0xA0008000#32 = some (.classifyOc (fourBits true true false true)) := by decide
/-- V-F7 is admitted by CLASSIFY.SCG and not by CLASSIFY.SCV. -/
theorem test_row_scg : readAsRow 4 0x60008000#32 = some (.classifyScg (fourBits true false true true)) := by decide
theorem test_row_scv_refuses_scg : readAsRow 5 0x60008000#32 = none := by decide
/-- V-F6, 0x20008000. -/
theorem test_row_scv : readAsRow 5 0x20008000#32 = some (.classifyScv (fourBits true false false true)) := by decide
/-- V-F11, 0x00008000. -/
theorem test_row_unknown : readAsRow 6 0x00008000#32 = some (.classifyUnknown (fourBits true false false false)) := by decide
/-- V-I5's internal field, 0x07FF0000. -/
theorem test_row_extract_int : readAsRow 7 0x07FF0000#32 = some (.extractInt
    { oc := false, scg := false, scv := false, rsv := false, intWord := 2047#12, faultFlag := false, tcWord := 0#14, scvRep := false }) := by
  decide
/-- V-T8's thermocouple field, 0x00004000. -/
theorem test_row_extract_tc : readAsRow 8 0x00004000#32 = some (.extractTc
    { oc := false, scg := false, scv := false, rsv := false, intWord := 0#12, faultFlag := false, tcWord := 0x2000#14, scvRep := false }) := by
  decide

/-- V-F16: the operations the all-ones frame passes through. -/
theorem test_operations_all_ones : (operationsOf 0xFFFFFFFF#32).map Instr.rowNumber = [0, 1, 3, 7, 8] := by decide

/-! ## One operation or one step against the spec's vectors -/

/-- Reset with one stimulus of four bytes for instance 0, timestamp 7. -/
def presented (b0 b1 b2 b3 : Byte) : State :=
  { State.reset with pending := [{ unit := 0, frame := .bytes [b0, b1, b2, b3], now := some 7 }] }

/-- The Readings observed after one step, or none where it gives no next state. -/
def readings (s : State) : Option (List Outputs) :=
  match step s with
  | .next t => some (t.events.map Event.reading)
  | .fault _ => none
  | .refused _ => none

/-- The active instance's outputs after one operation on the frame word w, started from outputs that no operation here gives. -/
def outputsAfter (i : Frame → Instr) (w : Word) : Option Outputs :=
  match exec (i (frameOfWord w)) (State.reset.drive fun _ => { intRaw := 5#12, tcRaw := 6#14, fault := 7#3, timestamp := 9 }) with
  | .next t => some t.ports.out
  | .fault _ => none
  | .refused _ => none

/-- V-D1, V-S1: 80, 256 (the reading of C2, not 512), None, timestamp 7. -/
theorem test_step_d1 : readings (presented 0x00#8 0x50#8 0x02#8 0x00#8) =
    some [{ intRaw := 80#12, tcRaw := 256#14, fault := 0#3, timestamp := 7 }] := rfl
/-- V-D3: a fault does not zero the temperatures: -1, -1, OpenCircuit. -/
theorem test_step_d3 : readings (presented 0x8F#8 0xFF#8 0xFF#8 0xFF#8) =
    some [{ intRaw := BitVec.ofInt 12 (-1), tcRaw := BitVec.ofInt 14 (-1), fault := 1#3, timestamp := 7 }] := rfl
/-- P1's fifth line: 25, 100, ShortToGround. -/
theorem test_step_p1_line5 : readings (presented 0x60#8 0x19#8 0x80#8 0xC8#8) =
    some [{ intRaw := 25#12, tcRaw := 100#14, fault := 2#3, timestamp := 7 }] := rfl

/-- V-F15: FAULT clear, SCV and its repeat set: None. -/
theorem test_classify_f15 : outputsAfter .classify 0x20000001#32 = some { intRaw := 5#12, tcRaw := 6#14, fault := 0#3, timestamp := 9 } := rfl
/-- V-F14: the two ignored bits are no cause: Unknown. -/
theorem test_classify_f14 : outputsAfter .classify 0x10008001#32 = some { intRaw := 5#12, tcRaw := 6#14, fault := 4#3, timestamp := 9 } := rfl
/-- V-F3. -/
theorem test_none_f3 : outputsAfter .classifyNone 0xF0000001#32 = some { intRaw := 5#12, tcRaw := 6#14, fault := 0#3, timestamp := 9 } := rfl
/-- V-F10. -/
theorem test_oc_f10 : outputsAfter .classifyOc 0xE0008000#32 = some { intRaw := 5#12, tcRaw := 6#14, fault := 1#3, timestamp := 9 } := rfl
/-- V-F5. -/
theorem test_scg_f5 : outputsAfter .classifyScg 0x40008000#32 = some { intRaw := 5#12, tcRaw := 6#14, fault := 2#3, timestamp := 9 } := rfl
/-- V-F6. -/
theorem test_scv_f6 : outputsAfter .classifyScv 0x20008000#32 = some { intRaw := 5#12, tcRaw := 6#14, fault := 3#3, timestamp := 9 } := rfl
/-- V-F13. -/
theorem test_unknown_f13 : outputsAfter .classifyUnknown 0x00008001#32 = some { intRaw := 5#12, tcRaw := 6#14, fault := 4#3, timestamp := 9 } := rfl
/-- V-I6: -2048, and only `int_raw` is driven. -/
theorem test_extract_int_i6 : outputsAfter .extractInt 0x08000000#32 =
    some { intRaw := BitVec.ofInt 12 (-2048), tcRaw := 6#14, fault := 7#3, timestamp := 9 } := rfl
/-- V-I10: byte0 bits 7..4 do not enter the field: 80. -/
theorem test_extract_int_i10 : outputsAfter .extractInt 0xF0500000#32 =
    some { intRaw := 80#12, tcRaw := 6#14, fault := 7#3, timestamp := 9 } := rfl
/-- V-T13: 256, the vector that tells C2's two readings apart. -/
theorem test_extract_tc_t13 : outputsAfter .extractTc 0x00000200#32 =
    some { intRaw := 5#12, tcRaw := 256#14, fault := 7#3, timestamp := 9 } := rfl
/-- V-T10: -1000. -/
theorem test_extract_tc_t10 : outputsAfter .extractTc 0x00007830#32 =
    some { intRaw := 5#12, tcRaw := BitVec.ofInt 14 (-1000), fault := 7#3, timestamp := 9 } := rfl

/-- R120's worked example: EXTRACT(0x0FFF, 12, 11, 2^-4) has value -0.0625 °C. -/
theorem test_extract_r120 : extractGeneric 0x0FFF#16 12 11 (1 / 16) = some (0xFFF#12, -1 / 16) := by decide +kernel
/-- V-S2's Reading: 0.0 °C, 32.0 °C, OpenCircuit and its message. -/
theorem test_reading_s2 : (readingOf (decodeReading 0x80008100#32 101)).map
    (fun r => (r.internalTempC, r.thermocoupleTempC, r.fault, r.message)) =
    some (0, 32, .openCircuit, "Open circuit to thermometer probe") := by decide +kernel
/-- V-S2's timestamp. -/
theorem test_reading_s2_timestamp : (readingOf (decodeReading 0x80008100#32 101)).map Reading.timestamp = some 101 := rfl
/-- Section 3: enc_int(-55) and enc_tc(-250); 0.03 is off the grid and 128 out of range. -/
theorem test_enc_int_minus55 : encInt (-55) = some [0x0C#8, 0x90#8, 0x00#8, 0x00#8] := by decide +kernel
theorem test_enc_tc_minus250 : encTc (-250) = some [0x00#8, 0x00#8, 0x78#8, 0x30#8] := by decide +kernel
theorem test_enc_int_off_grid : encInt (3 / 100) = none ∧ encInt 128 = none := by decide +kernel
/-- The host's table words: V-S1's word is fetched and run by the very next step after reset. -/
theorem test_table_word : readings (State.reset.withFetchWord 32 0x00500200) =
    some [{ intRaw := 80#12, tcRaw := 256#14, fault := 0#3, timestamp := 0 }] := rfl
/-- R9's example in the host's numbering: bit 31 is byte0 bit 7. -/
theorem test_table_word_numbering : decodeTableWord 32 (2 ^ 31) = some (.decode (fourBits false true false false)) := by decide

/-! ## Witnesses: each statement's hypotheses can be met -/

/-- A state the invariant holds in, with a stimulus pending: what the invariant statements take a step from. -/
theorem presented_inv (b0 b1 b2 b3 : Byte) : Inv (presented b0 b1 b2 b3) where
  wf := by simp [presented, State.reset]
  settled := fun k => by
    show Settled (State.reset.portsOf k)
    rw [State.reset_portsOf]
    rfl
  sound := by simp [presented, State.reset]

theorem witness_StepKeepsPortsSettledAndEventsSound :
    ∃ s t, Inv s ∧ step s = .next t ∧ t.events ≠ [] :=
  ⟨presented 0x8F#8 0xFF#8 0xFF#8 0xFF#8, _, presented_inv _ _ _ _, rfl, by decide⟩

/-- A stimulus that leaves its timestamp out, from a state in which every timestamp output is its input. -/
theorem witness_StepKeepsTimestampsTsWBits : ∃ s t, TimestampsPass s ∧ step s = .next t ∧ t.freeCount = 1 := by
  refine ⟨{ State.reset with pending := [{ unit := 1, frame := .word 0x80008100#32, now := none }] }, _,
    ⟨fun k => ?_, by simp [State.reset]⟩, rfl, rfl⟩
  show (State.reset.portsOf k).out.timestamp = (State.reset.portsOf k).now
  rw [State.reset_portsOf]
  rfl

/-- Each row has a well-formed operation. -/
theorem witness_EveryRowReadsItsOwnOperationBack :
    [Instr.decode (fourBits true true true true), .classify (fourBits false true false true), .classifyNone (fourBits false true true true),
      .classifyOc (fourBits true true true true), .classifyScg (fourBits true false true true),
      .classifyScv (fourBits true false false true), .classifyUnknown (fourBits true false false false),
      .extractInt (fourBits true false true false), .extractTc (fourBits false false true false)].all Instr.wellFormed = true := by
  decide

/-- Both sides of every case's condition occur. -/
theorem witness_FramePassesThroughExactlyOneCase :
    [0x00000000#32, 0x80008000#32, 0x40008000#32, 0x20008000#32, 0x00008000#32].map
      (fun w => (operationsOf w).map Instr.rowNumber) =
    [[0, 1, 2, 7, 8], [0, 1, 3, 7, 8], [0, 1, 4, 7, 8], [0, 1, 5, 7, 8], [0, 1, 6, 7, 8]] := by decide

/-- Both bounds of `j < 8`: bit 7 of byte0 is W[31] and bit 0 of byte3 is W[0]. -/
theorem witness_FrameWordIsBigEndian :
    frameWord [0x80#8, 0x00#8, 0x00#8, 0x01#8] = .ok 0x80000001#32 ∧ (0x80000001#32).getLsbD (8 * 3 + 7) = true ∧
      (0x80000001#32).getLsbD 0 = true := by decide

theorem witness_StepRunsTheDecodedOperation :
    (∃ s x rest w i, s.pending = x :: rest ∧ frameWord x.bytes = .ok w ∧ decode x.bytes = .ok i ∧ s = presented 0x00#8 0x50#8 0x02#8 0x00#8) ∧
    (∃ i, State.reset.pending = [] ∧ decode (bytesOfWord State.reset.ports.frame) = .ok i) :=
  ⟨⟨_, _, _, 0x00500200#32, .decode (frameOfWord 0x00500200#32), rfl, by decide, by decide, rfl⟩,
    ⟨.decode (frameOfWord 0#32), rfl, by decide⟩⟩

/-- Both clauses: five bytes, and four. -/
theorem witness_OnlyFourBytesGiveAReading :
    ∃ x y : Stimulus, ({ State.reset with pending := [x] } : State).pending = x :: [] ∧ x.bytes.length ≠ 4 ∧
      ({ State.reset with pending := [y] } : State).pending = y :: [] ∧ y.bytes.length = 4 :=
  ⟨{ unit := 0, frame := .bytes [0x00#8, 0x50#8, 0x02#8, 0x00#8, 0x00#8], now := some 0 },
    { unit := 0, frame := .word 0x00500200#32, now := some 0 }, rfl, by decide, rfl, by decide⟩

theorem witness_StepDecodesThePresentedFrame :
    ∃ s x rest w, s = presented 0x8F#8 0xFF#8 0xFF#8 0xFF#8 ∧ s.pending = x :: rest ∧ frameWord x.bytes = .ok w :=
  ⟨_, _, _, 0x8FFFFFFF#32, rfl, rfl, by decide⟩

/-- Reset has nothing pending and meets the invariant. -/
theorem witness_HeldInputsGiveTheSameOutputs : State.reset.pending = [] ∧ Inv State.reset :=
  ⟨rfl, ⟨by simp [State.reset], fun k => by rw [State.reset_portsOf]; rfl, by simp [State.reset]⟩⟩

/-- P3's four lines, in two interleavings that keep each instance's own order. -/
def p3 : List Stimulus :=
  [{ unit := 0, frame := .word 0xFFFFFFFF#32, now := some 1 }, { unit := 1, frame := .word 0x00008000#32, now := some 1 },
    { unit := 0, frame := .word 0x20008000#32, now := some 2 }, { unit := 1, frame := .word 0x0C907830#32, now := some 2 }]
def p3' : List Stimulus :=
  [{ unit := 1, frame := .word 0x00008000#32, now := some 1 }, { unit := 1, frame := .word 0x0C907830#32, now := some 2 },
    { unit := 0, frame := .word 0xFFFFFFFF#32, now := some 1 }, { unit := 0, frame := .word 0x20008000#32, now := some 2 }]

theorem witness_RunObservesOneReadingPerStimulus :
    ∃ s : State, s.pending = p3 ∧ ∀ x ∈ s.pending, x.wellFormed = true :=
  ⟨{ State.reset with pending := p3 }, rfl, by decide⟩

theorem witness_RepeatedFrameGivesTheSameReading :
    ∃ s : State, s.pending = List.replicate 3 { unit := 0, frame := .word 0x80008100#32, now := some 7 } :=
  ⟨{ State.reset with pending := List.replicate 3 { unit := 0, frame := .word 0x80008100#32, now := some 7 } }, rfl⟩

theorem p3_ne : p3 ≠ p3' := fun h => absurd (congrArg (List.map Stimulus.unit) h) (by decide)

theorem witness_ReorderingChangesNoReading :
    p3.Perm p3' ∧ p3 ≠ p3' ∧ ∀ x ∈ p3, x.wellFormed = true ∧ x.now.isSome = true :=
  ⟨(List.Perm.swap _ _ _).trans (.cons _ ((List.Perm.cons _ (.swap _ _ _)).trans (.swap _ _ _))), p3_ne, by decide⟩

theorem witness_InterleavingKeepsEachInstance :
    p3 ≠ p3' ∧ (∀ x ∈ p3 ++ p3', x.wellFormed = true ∧ x.now.isSome = true) ∧
      ∀ k, p3.filter (fun x => x.unit == k) = p3'.filter (fun x => x.unit == k) := by
  refine ⟨p3_ne, by decide, fun k => ?_⟩
  by_cases h0 : k = 0
  · subst h0; rfl
  by_cases h1 : k = 1
  · subst h1; rfl
  have n0 : (0 == k) = false := by simpa using Ne.symm h0
  have n1 : (1 == k) = false := by simpa using Ne.symm h1
  simp [p3, p3', n0, n1]

/-- The conditions of the five cases, and for each a frame off its row. -/
theorem witness_NoneCaseIsFaultFlagClear : (encode (.classifyNone (frameOfWord 0xE0000000#32))).getLsbD 15 = false := by decide
theorem witness_OcCaseWinsWhateverScgAndScv :
    (encode (.classifyOc (frameOfWord 0xE0008000#32))).getLsbD 15 = true ∧
      (encode (.classifyOc (frameOfWord 0xE0008000#32))).getLsbD 31 = true := by decide
theorem witness_ScgCaseWinsOverScv :
    (encode (.classifyScg (frameOfWord 0x60008000#32))).getLsbD 15 = true ∧
      (encode (.classifyScg (frameOfWord 0x60008000#32))).getLsbD 31 = false ∧
      (encode (.classifyScg (frameOfWord 0x60008000#32))).getLsbD 30 = true := by decide
theorem witness_ScvCaseIgnoresRepeatedScv :
    (encode (.classifyScv (frameOfWord 0x20008000#32))).getLsbD 15 = true ∧
      (encode (.classifyScv (frameOfWord 0x20008000#32))).getLsbD 31 = false ∧
      (encode (.classifyScv (frameOfWord 0x20008000#32))).getLsbD 30 = false ∧
      (encode (.classifyScv (frameOfWord 0x20008000#32))).getLsbD 29 = true := by decide
theorem witness_UnknownCaseIsNoCauseBit :
    (encode (.classifyUnknown (frameOfWord 0x10008001#32))).getLsbD 15 = true ∧
      (encode (.classifyUnknown (frameOfWord 0x10008001#32))).getLsbD 31 = false ∧
      (encode (.classifyUnknown (frameOfWord 0x10008001#32))).getLsbD 30 = false ∧
      (encode (.classifyUnknown (frameOfWord 0x10008001#32))).getLsbD 29 = false := by decide
theorem witness_CaseOffItsFrameDrivesNothing :
    Instr.wellFormed (.classifyNone (fourBits true false false false)) = false ∧
    Instr.wellFormed (.classifyOc (fourBits true false true true)) = false ∧
    Instr.wellFormed (.classifyScg (fourBits true true true false)) = false ∧
    Instr.wellFormed (.classifyScv (fourBits true false true true)) = false ∧
    Instr.wellFormed (.classifyUnknown (fourBits true false false true)) = false := by decide

/-- The cases in another order than the table's. -/
theorem witness_FiveCasesInAnyOrderAreClassify (f : Frame) :
    [Instr.classifyUnknown f, .classifyNone f, .classifyScv f, .classifyScg f, .classifyOc f].Perm
      [.classifyNone f, .classifyOc f, .classifyScg f, .classifyScv f, .classifyUnknown f] := by
  rw [List.perm_iff_count]
  intro i
  simp only [List.count_cons, List.count_nil]
  omega

/-- Two frame words that differ in every bit CLASSIFY does not read. -/
theorem witness_ClassifyReadsFourBits :
    (0x60008000#32).getLsbD 15 = (0x7FFFFFFF#32).getLsbD 15 ∧ (0x60008000#32).getLsbD 31 = (0x7FFFFFFF#32).getLsbD 31 ∧
      (0x60008000#32).getLsbD 30 = (0x7FFFFFFF#32).getLsbD 30 ∧ (0x60008000#32).getLsbD 29 = (0x7FFFFFFF#32).getLsbD 29 := by decide

/-- A code at each side of the bound, and a step that records an event. -/
theorem witness_FaultCodesAreZeroToFour :
    faultKindOfCode 5#3 = none ∧ faultKindOfCode 4#3 = some .unknown ∧
      ∃ t, step (presented 0x00#8 0x00#8 0x80#8 0x00#8) = .next t ∧ t.events ≠ [] :=
  ⟨by decide, by decide, _, rfl, by decide⟩

/-- An output for each clause: the code it names. -/
theorem witness_MessagesAreTheTableOfTexts :
    [0x00500200#32, 0x80008100#32, 0x40008000#32, 0x20008000#32, 0x00008000#32].map (fun w => (decodeReading w 7).fault) =
      [FaultKind.none.code, FaultKind.openCircuit.code, FaultKind.shortToGround.code, FaultKind.shortToPower.code,
        FaultKind.unknown.code] := by decide

/-- N = 1, and the words on both sides of the sign for N = 12 (R122's extremes), one extension width, and both ends of the range. -/
theorem witness_SignedWordsAreTwosComplement :
    1 ≤ 1 ∧ signedN 1#1 = -1 ∧ (0x7FF#12).toNat < 2 ^ (12 - 1) ∧ signedN 0x7FF#12 = 2047 ∧ 2 ^ (12 - 1) ≤ (0x800#12).toNat ∧
      signedN 0x800#12 = -2048 ∧ 12 ≤ 12 := by decide

/-- The block's two parameter sets and the corners of R121's range. -/
theorem witness_ExtractReconstructsThenScales :
    ([(12, 11), (14, 14), (1, 0), (1, 15), (16, 15)] : List (Nat × Nat)).all
      (fun q => 1 ≤ q.1 && q.1 ≤ 16 && q.2 ≤ 15 && q.1 ≤ q.2 + 1) = true := by decide

/-- One parameter set past each of R121's four bounds. -/
theorem witness_ExtractRefusesOtherParameters :
    ([(0, 11), (17, 16), (12, 16), (12, 10)] : List (Nat × Nat)).all
      (fun q => !(1 ≤ q.1 && q.1 ≤ 16 && q.2 ≤ 15 && q.1 ≤ q.2 + 1)) = true := by decide

/-- Words that agree exactly on the field and differ everywhere else, for each extractor. -/
theorem witness_ExtractorsReadOnlyTheirFields :
    (∀ i, 16 ≤ i → i ≤ 27 → (0x0FFF0000#32).getLsbD i = (0xFFFFFFFF#32).getLsbD i) ∧
    (∀ i, 1 ≤ i → i ≤ 14 → (0x00007FFE#32).getLsbD i = (0xFFFFFFFF#32).getLsbD i) := by
  constructor <;> intro i h1 h2 <;> interval_cases i <;> decide

/-- Both ends of both ranges. -/
theorem witness_EncodedTemperaturesComeBackExactly :
    encInt (-128) = some [0x08#8, 0x00#8, 0x00#8, 0x00#8] ∧ encInt (2047 / 16) = some [0x07#8, 0xFF#8, 0x00#8, 0x00#8] ∧
      encTc (-2048) = some [0x00#8, 0x00#8, 0x40#8, 0x00#8] ∧ encTc (8191 / 4) = some [0x00#8, 0x00#8, 0x3F#8, 0xFE#8] := by
  decide +kernel

/-- Words that agree on one output's bits and nowhere else, and the sub-operations in another order. -/
theorem witness_DecodeIsItsPartsInAnyOrder (f : Frame) :
    (∀ i, i = 15 ∨ 29 ≤ i ∧ i ≤ 31 → (0xE0008000#32).getLsbD i = (0xFFFFFFFF#32).getLsbD i) ∧
    (∀ i, 16 ≤ i ∧ i ≤ 27 → (0x0FFF0000#32).getLsbD i = (0xFFFFFFFF#32).getLsbD i) ∧
    (∀ i, 1 ≤ i ∧ i ≤ 14 → (0x00007FFE#32).getLsbD i = (0xFFFFFFFF#32).getLsbD i) ∧
    [Instr.extractTc f, .extractInt f, .classify f].Perm [.classify f, .extractInt f, .extractTc f] := by
  refine ⟨?_, ?_, ?_, ?_⟩
  · intro i h
    have : i = 15 ∨ i = 29 ∨ i = 30 ∨ i = 31 := by omega
    rcases this with rfl | rfl | rfl | rfl <;> decide
  · rintro i ⟨h1, h2⟩
    interval_cases i <;> decide
  · rintro i ⟨h1, h2⟩
    interval_cases i <;> decide
  · rw [List.perm_iff_count]
    intro i
    simp only [List.count_cons, List.count_nil]
    omega

/-- V-D4's two words. -/
theorem witness_ReservedAndRepeatedBitsAreIgnored : (0x0FFF7FFE#32 ^^^ 0x1FFF7FFF#32) &&& 0xEFFFFFFE#32 = 0#32 := by decide

end Sys2Proof.Tests
end

section
/-! R9: the bits and the bytes of a word laid out from four bytes. -/

namespace Sys2Proof

/-- R9, read with byte K as entry K of the byte list. -/
theorem wordOfBytes_getLsbD (b0 b1 b2 b3 : Byte) {k j : Nat} (hk : k < 4) (hj : j < 8) :
    (wordOfBytes b0 b1 b2 b3).getLsbD (8 * (3 - k) + j) = ([b0, b1, b2, b3][k]'hk).getLsbD j := by
  simp only [wordOfBytes, BitVec.getLsbD_append]
  interval_cases k
  · rw [if_neg (by omega), if_neg (by omega), if_neg (by omega)]
    exact congrArg b0.getLsbD (by omega)
  · rw [if_neg (by omega), if_neg (by omega), if_pos (by omega)]
    exact congrArg b1.getLsbD (by omega)
  · rw [if_neg (by omega), if_pos (by omega)]
    exact congrArg b2.getLsbD (by omega)
  · rw [if_pos (by omega)]
    exact congrArg b3.getLsbD (by omega)

/-- Eight bits of the word from bit `8*(3-K)` up are byte K. -/
theorem wordOfBytes_extractLsb' (b0 b1 b2 b3 : Byte) {k : Nat} (hk : k < 4) :
    (wordOfBytes b0 b1 b2 b3).extractLsb' (8 * (3 - k)) 8 = [b0, b1, b2, b3][k]'hk := by
  apply BitVec.eq_of_getLsbD_eq
  intro j hj
  rw [BitVec.getLsbD_extractLsb', wordOfBytes_getLsbD b0 b1 b2 b3 hk hj, decide_eq_true hj, Bool.true_and]

/-- Laying four bytes out as a word and reading its bytes gives the four bytes back. -/
theorem bytesOfWord_wordOfBytes (b0 b1 b2 b3 : Byte) : bytesOfWord (wordOfBytes b0 b1 b2 b3) = [b0, b1, b2, b3] := by
  have hbyte (k : Nat) (hk : k < 4) := wordOfBytes_extractLsb' b0 b1 b2 b3 hk
  rw [bytesOfWord, hbyte 0 (by decide), hbyte 1 (by decide), hbyte 2 (by decide), hbyte 3 (by decide)]
  rfl

/-- Settles O8: the word is `wordOfBytes`, its bytes are the four, and each byte's bits are `wordOfBytes_getLsbD` at its K. -/
theorem frameWordIsBigEndian : Obligations.FrameWordIsBigEndian := by
  unfold Obligations.FrameWordIsBigEndian
  intro b0 b1 b2 b3
  refine ⟨wordOfBytes b0 b1 b2 b3, rfl, bytesOfWord_wordOfBytes b0 b1 b2 b3, fun j hj => ?_⟩
  have hbit (k : Nat) (hk : k < 4) := wordOfBytes_getLsbD b0 b1 b2 b3 hk hj
  have hlast := hbit 3 (by decide)
  rw [Nat.sub_self, Nat.mul_zero, Nat.zero_add] at hlast
  exact ⟨(hbit 0 (by decide)).symm, (hbit 1 (by decide)).symm, (hbit 2 (by decide)).symm, hlast.symm⟩

end Sys2Proof
end

section
/-! What a step can do (a unit is one of the copies of the block that R180 speaks of), told by the state it answers: the host's move, a DECODE of the presented inputs, the Reading taken. -/

namespace Sys2Proof.Machine

/-! ## The host's move -/

/-- s with the stimulus x, whose frame word is w, on the input ports of its unit and rest left of the host's program: what
`presentNext` answers (`presentNext_of_frame`). -/
def State.present (s : State) (x : Stimulus) (rest : List Stimulus) (w : Word) : State :=
  (s.applyInputs x.unit w (timestampOf x s.freeCount)).dequeue rest (omittedAfter x s.freeCount)

theorem State.presentNext_of_frame {s : State} {x : Stimulus} {rest : List Stimulus} {w : Word} (hp : s.pending = x :: rest)
    (hw : frameWord x.bytes = .ok w) : s.presentNext = .ok (s.present x rest w) := by
  simp only [State.presentNext, hp, hw, State.present]

theorem State.presentNext_of_held {s : State} (hp : s.pending = []) : s.presentNext = .ok s := by
  simp only [State.presentNext, hp]

theorem State.present_portsOf_of_ne (s : State) {x : Stimulus} (rest : List Stimulus) (w : Word) {k : Nat} (hk : k ≠ x.unit) :
    (s.present x rest w).portsOf k = s.portsOf k := by
  rw [State.present, State.dequeue_portsOf, State.applyInputs_portsOf, if_neg hk]

@[simp] theorem State.present_ports (s : State) (x : Stimulus) (rest : List Stimulus) (w : Word) :
    (s.present x rest w).ports = (s.portsOf x.unit).withInputs w (timestampOf x s.freeCount) := by
  show (s.applyInputs x.unit w _).portsOf x.unit = _
  rw [State.applyInputs_portsOf, if_pos rfl]

/-! ## The DECODE -/

/-- u is s with the active unit's outputs driven with DECODE of its inputs and nothing else touched. -/
structure DecodedTo (s u : State) : Prop where
  out : u.ports.out = decodeReading s.ports.frame s.ports.now
  only : OnlyOutputs s u
  wf : InstancesWf s.instances → InstancesWf u.instances

theorem execDecode_wf {f : Frame} {s u : State} (h : exec (.decode f) s = .next u) (hs : InstancesWf s.instances) :
    InstancesWf u.instances := by
  obtain rfl := Host.Outcome.next.inj h
  exact insertPorts_wf (insertPorts_wf (insertPorts_wf (insertPorts_wf hs _ _) _ _) _ _) _ _

/-- The operation the input ports present is DECODE of them. -/
theorem exec_decodeWord_ports (s : State) : ∃ u, exec (decodeWord s.ports.frame) s = .next u ∧ DecodedTo s u := by
  obtain ⟨u, hu, hout, honly⟩ := execDecode_next (frameOfWord s.ports.frame) s
  rw [word_frameOfWord] at hout
  exact ⟨u, hu, hout, honly, execDecode_wf hu⟩

theorem DecodedTo.ports {s u : State} (h : DecodedTo s u) :
    u.ports = s.ports.withOut (decodeReading s.ports.frame s.ports.now) := by
  rw [← h.out]
  show u.ports = { frame := s.ports.frame, now := s.ports.now, out := u.ports.out }
  rw [← h.only.frame, ← h.only.now]

theorem DecodedTo.settled {s u : State} (h : DecodedTo s u) : Settled u.ports := by
  rw [h.ports]
  rfl

/-! ## The three steps: on held inputs, on a frame, on a sequence that is no frame -/

theorem step_eq_of_presentNext {s t : State} (h : s.presentNext = .ok t) :
    step s = finishStep (!s.pending.isEmpty) (exec (decodeWord t.ports.frame) t) := by
  simp only [step, h, State.fetch_eq]

/-- With nothing pending a step is the operation of the held inputs, and no Reading is taken (log 7). -/
theorem step_of_held {s : State} (hp : s.pending = []) :
    ∃ t, exec (decodeWord s.ports.frame) s = .next t ∧ step s = .next t ∧ DecodedTo s t := by
  obtain ⟨t, ht, hd⟩ := exec_decodeWord_ports s
  refine ⟨t, ht, ?_, hd⟩
  rw [step_eq_of_presentNext (State.presentNext_of_held hp), ht, hp]
  rfl

/-- The decode event of the stimulus x, whose frame word is w, when k timestamps have been left out before it (R40). -/
def decodeEvent (x : Stimulus) (w : Word) (k : Nat) : Event where
  unit := x.unit
  frame := w
  now := timestampOf x k
  reading := decodeReading w (timestampOf x k)

theorem decodeEvent_sound (x : Stimulus) (w : Word) (k : Nat) : EventSound (decodeEvent x w k) := rfl

/-- The whole effect of one decode event (R40) on the stimulus x, whose frame word is w: t is the state after it, with rest left of
the host's program. -/
structure FrameDecoded (s t : State) (x : Stimulus) (rest : List Stimulus) (w : Word) : Prop where
  ports : t.portsOf x.unit =
    { frame := w, now := timestampOf x s.freeCount, out := decodeReading w (timestampOf x s.freeCount) }
  others : ∀ k, k ≠ x.unit → t.portsOf k = s.portsOf k
  events : t.events = s.events ++ [decodeEvent x w s.freeCount]
  pending : t.pending = rest
  active : t.active = x.unit
  freeCount : t.freeCount = omittedAfter x s.freeCount
  wf : InstancesWf s.instances → InstancesWf t.instances

/-- Taking the Reading after the DECODE of the inputs x presents completes x's decode event. -/
theorem DecodedTo.frameDecoded {s u : State} {x : Stimulus} {rest : List Stimulus} {w : Word}
    (h : DecodedTo (s.present x rest w) u) : FrameDecoded s u.takeReading x rest w := by
  have hactive : u.active = x.unit := h.only.active
  have hports : u.ports =
      { frame := w, now := timestampOf x s.freeCount, out := decodeReading w (timestampOf x s.freeCount) } := by
    rw [h.ports, State.present_ports]
    rfl
  have hevents : u.events = s.events := h.only.events
  exact {
    ports := by rw [State.takeReading_portsOf, ← hports, ← hactive]; rfl
    others := fun k hk => (h.only.others k hk).trans (s.present_portsOf_of_ne rest w hk)
    events := by
      rw [State.takeReading_events, hevents, hactive, hports]
      rfl
    pending := h.only.pending
    active := hactive
    freeCount := h.only.freeCount
    wf := fun hs => h.wf (insertPorts_wf hs _ _) }

/-- With a frame pending a step is its operation at the state that presents it, and then the Reading is taken. -/
theorem step_of_frame {s : State} {x : Stimulus} {rest : List Stimulus} {w : Word} (hp : s.pending = x :: rest)
    (hw : frameWord x.bytes = .ok w) :
    ∃ u, exec (decodeWord w) (s.present x rest w) = .next u ∧ step s = .next u.takeReading ∧
      FrameDecoded s u.takeReading x rest w := by
  obtain ⟨u, hu, hd⟩ := exec_decodeWord_ports (s.present x rest w)
  have hstep : step s = .next u.takeReading := by
    rw [step_eq_of_presentNext (State.presentNext_of_frame hp hw), hu, hp]
    rfl
  rw [State.present_ports, Ports.withInputs_frame] at hu
  exact ⟨u, hu, hstep, hd.frameDecoded⟩

/-- A byte sequence of another length is refused with that length (R37). -/
theorem step_of_wrongLength {s : State} {x : Stimulus} {rest : List Stimulus} (hp : s.pending = x :: rest)
    (hl : x.bytes.length ≠ 4) : step s = .refused (.frameLength x.bytes.length) := by
  simp only [step, State.presentNext, hp, frameWord_of_length_ne hl, refusalOf]

/-- Every state is in one of three cases: nothing pending, a frame pending, or a byte sequence pending that is no frame. -/
theorem State.pending_cases (s : State) :
    s.pending = [] ∨ (∃ x rest w, s.pending = x :: rest ∧ frameWord x.bytes = .ok w) ∨
      ∃ x rest, s.pending = x :: rest ∧ x.bytes.length ≠ 4 := by
  obtain ⟨hp, -⟩ | ⟨x, rest, hp, hl, -⟩ | ⟨x, rest, w, hp, hw, -⟩ := s.presentNext_cases
  · exact .inl hp
  · exact .inr (.inr ⟨x, rest, hp, hl⟩)
  · exact .inr (.inl ⟨x, rest, w, hp, hw⟩)

/-- A step that answers a next state decoded the held inputs or a frame. -/
theorem step_next_cases {s t : State} (h : step s = .next t) :
    (s.pending = [] ∧ DecodedTo s t) ∨
      ∃ x rest w, s.pending = x :: rest ∧ frameWord x.bytes = .ok w ∧ FrameDecoded s t x rest w := by
  obtain hp | ⟨x, rest, w, hp, hw⟩ | ⟨x, rest, hp, hl⟩ := s.pending_cases
  · obtain ⟨t', -, ht', hd⟩ := step_of_held hp
    obtain rfl := Host.Outcome.next.inj (ht'.symm.trans h)
    exact .inl ⟨hp, hd⟩
  · obtain ⟨u, -, hu, hd⟩ := step_of_frame hp hw
    obtain rfl := Host.Outcome.next.inj (hu.symm.trans h)
    exact .inr ⟨x, rest, w, hp, hw, hd⟩
  · exact nomatch (step_of_wrongLength hp hl).symm.trans h

/-- What every step leaves, whatever it was taken on: the evaluated unit settled, every other unit as it was, and only sound
events added. -/
structure Evaluated (s t : State) : Prop where
  settled : Settled t.ports
  others : ∀ k, k ≠ t.active → t.portsOf k = s.portsOf k
  events : ∃ es, t.events = s.events ++ es ∧ ∀ e ∈ es, EventSound e
  wf : InstancesWf s.instances → InstancesWf t.instances

theorem step_evaluated {s t : State} (h : step s = .next t) : Evaluated s t := by
  obtain ⟨-, hd⟩ | ⟨x, rest, w, -, -, hd⟩ := step_next_cases h
  · exact {
      settled := hd.settled
      others := fun k hk => hd.only.others k (hd.only.active ▸ hk)
      events := ⟨[], by rw [hd.only.events, List.append_nil], List.forall_mem_nil _⟩
      wf := hd.wf }
  · exact {
      settled := by rw [State.ports, hd.active, hd.ports]
      others := fun k hk => hd.others k (hd.active ▸ hk)
      events := ⟨_, hd.events, List.forall_mem_singleton.mpr (decodeEvent_sound _ _ _)⟩
      wf := hd.wf }

/-- A property of one unit's ports that settled ports have is kept by every step at every unit. -/
theorem Evaluated.portsOf {s t : State} (h : Evaluated s t) {P : Ports → Prop} (hP : ∀ p, Settled p → P p)
    (hs : ∀ k, P (s.portsOf k)) (k : Nat) : P (t.portsOf k) := by
  by_cases hk : k = t.active
  · subst hk
    exact hP _ h.settled
  · exact h.others k hk ▸ hs k

/-- A property of one event that sound events have is kept by every step. -/
theorem Evaluated.forall_events {s t : State} (h : Evaluated s t) {P : Event → Prop} (hP : ∀ e, EventSound e → P e)
    (hs : ∀ e ∈ s.events, P e) : ∀ e ∈ t.events, P e := by
  obtain ⟨es, hes, hsound⟩ := h.events
  rw [hes]
  intro e he
  rcases List.mem_append.mp he with he | he
  · exact hs e he
  · exact hP e (hsound e he)

end Sys2Proof.Machine
end

section
/-! The invariant and the two timestamp invariants: at reset, and across a step. -/

namespace Sys2Proof.Machine

/-- Settles O3: the evaluated unit is settled, the others are as they were, and the events a step adds are sound. -/
theorem stepKeepsPortsSettledAndEventsSound : Obligations.StepKeepsPortsSettledAndEventsSound := by
  unfold Obligations.StepKeepsPortsSettledAndEventsSound
  intro s t hinv h
  have hev := step_evaluated h
  exact {
    wf := hev.wf hinv.wf
    settled := hev.portsOf (fun _ hp => hp) hinv.settled
    sound := hev.forall_events (fun _ he => he) hinv.sound }

/-- The ports' type bounds every timestamp (log 3). -/
theorem timestampsFit (s : State) : TimestampsFit s where
  ports _ := ⟨BitVec.isLt _, BitVec.isLt _⟩
  events _ _ := ⟨BitVec.isLt _, BitVec.isLt _⟩
  pending _ _ _ _ := BitVec.isLt _

theorem Settled.timestamp {p : Ports} (h : Settled p) : p.out.timestamp = p.now := congrArg Outputs.timestamp h

theorem EventSound.timestamp {e : Event} (h : EventSound e) : e.reading.timestamp = e.now := congrArg Outputs.timestamp h

/-- Settles O4: DECODE passes `now` through, so settled ports and sound events do. -/
theorem stepKeepsTimestampsTsWBits : Obligations.StepKeepsTimestampsTsWBits := by
  unfold Obligations.StepKeepsTimestampsTsWBits
  intro s t h
  have hev := step_evaluated h
  obtain ⟨es, hes, hsound⟩ := hev.events
  refine ⟨timestampsFit t, Settled.timestamp hev.settled, ⟨es, hes, fun e he => EventSound.timestamp (hsound e he)⟩, fun hs => ?_⟩
  exact {
    ports := hev.portsOf (fun _ hp => Settled.timestamp hp) hs.ports
    events := hev.forall_events (fun _ he => EventSound.timestamp he) hs.events }

theorem reset_settled (k : Nat) : Settled (State.reset.portsOf k) := by
  rw [State.reset_portsOf]
  rfl

/-- Settles O2: at reset every unit is idle, idle ports are settled, and nothing is recorded or listed. -/
theorem resetMeetsTheInvariants : Obligations.ResetMeetsTheInvariants := by
  unfold Obligations.ResetMeetsTheInvariants
  exact ⟨⟨.nil, reset_settled, List.forall_mem_nil _⟩, timestampsFit _,
    ⟨fun k => Settled.timestamp (reset_settled k), List.forall_mem_nil _⟩⟩

end Sys2Proof.Machine
end

section
/-! One step: what it runs, when it is refused, and its whole effect in the spec's formulas. -/

namespace Sys2Proof.Machine

theorem decode_of_frameWord {bs : List Byte} {w : Word} (h : frameWord bs = .ok w) : decode bs = .ok (decodeWord w) := by
  simp only [decode, h]

/-- Settles O11: four bytes decode to the DECODE of their word, and so do the bytes of the held frame. -/
theorem stepRunsTheDecodedOperation : Obligations.StepRunsTheDecodedOperation := by
  unfold Obligations.StepRunsTheDecodedOperation
  constructor
  · intro s x rest w i hp hw hi
    obtain rfl := Except.ok.inj ((decode_of_frameWord hw).symm.trans hi)
    obtain ⟨u, hu, hstep, -⟩ := step_of_frame hp hw
    exact ⟨u, hu, hstep⟩
  · intro s i hp hi
    obtain rfl := Except.ok.inj ((decode_bytesOfWord _).symm.trans hi)
    obtain ⟨u, hu, hstep, -⟩ := step_of_held hp
    exact ⟨u, hu, hstep⟩

/-- Settles O12: any other length is refused, and four bytes are a frame word, whose step adds its event. -/
theorem onlyFourBytesGiveAReading : Obligations.OnlyFourBytesGiveAReading := by
  unfold Obligations.OnlyFourBytesGiveAReading
  intro s x rest hp
  refine ⟨step_of_wrongLength hp, fun hl => ?_⟩
  obtain ⟨w, hw⟩ := frameWord_of_length hl
  obtain ⟨u, -, hstep, hd⟩ := step_of_frame hp hw
  exact ⟨_, _, hstep, hd.events⟩

/-- Settles O13: held inputs and frames give a next state, and the third case of `pending_cases` is the refusal. -/
theorem refusalsAreWrongLengthsOnly : Obligations.RefusalsAreWrongLengthsOnly := by
  unfold Obligations.RefusalsAreWrongLengthsOnly
  intro s
  obtain hp | ⟨x, rest, w, hp, hw⟩ | ⟨x, rest, hp, hl⟩ := s.pending_cases
  · obtain ⟨t, -, hstep, -⟩ := step_of_held hp
    exact .inl ⟨t, hstep⟩
  · obtain ⟨u, -, hstep, -⟩ := step_of_frame hp hw
    exact .inl ⟨_, hstep⟩
  · exact .inr ⟨x, rest, hp, hl, step_of_wrongLength hp hl⟩

/-- R122's value: the field W[27:16], its sign at W[27]. -/
theorem extractInt_toInt (w : Word) : (extractInt w).toInt =
    if w.getLsbD 27 then ((w.extractLsb' 16 12).toNat : Int) - 4096 else (w.extractLsb' 16 12).toNat := by
  rw [extractInt_eq_field, ← signedN_eq_toInt, signedN, BitVec.getLsbD_extractLsb']
  rfl

/-- R123's value: the field W[14:1], its sign at W[14]. -/
theorem extractTc_toInt (w : Word) : (extractTc w).toInt =
    if w.getLsbD 14 then ((w.extractLsb' 1 14).toNat : Int) - 16384 else (w.extractLsb' 1 14).toNat := by
  rw [extractTc_eq_field, ← signedN_eq_toInt, signedN, BitVec.getLsbD_extractLsb']
  rfl

/-- R100's chain over the bits of W, with R80's codes. -/
theorem classify_code (w : Word) : (classify (frameOfWord w)).code =
    if w.getLsbD 15 = false then 0#3 else if w.getLsbD 31 then 1#3 else if w.getLsbD 30 then 2#3
    else if w.getLsbD 29 then 3#3 else 4#3 := by
  simp only [classify, apply_ite FaultKind.code]
  rfl

/-- Settles O16: the Reading is `decodeReading`, each port by its formula, and the frame is `FrameDecoded`. -/
theorem stepDecodesThePresentedFrame : Obligations.StepDecodesThePresentedFrame := by
  unfold Obligations.StepDecodesThePresentedFrame
  intro s x rest w hp hw
  obtain ⟨u, -, hstep, hd⟩ := step_of_frame hp hw
  exact ⟨_, decodeReading w (timestampOf x s.freeCount), hstep, extractInt_toInt w, extractTc_toInt w, classify_code w, rfl,
    hd.ports, hd.others, hd.events, hd.pending, hd.active, hd.freeCount⟩

/-- DECODE of settled ports changes no port. -/
theorem DecodedTo.portsOf_of_settled {s t : State} (h : DecodedTo s t) (hs : Settled s.ports) (k : Nat) :
    t.portsOf k = s.portsOf k := by
  by_cases hk : k = s.active
  · subst hk
    have hports : t.ports = s.ports := by
      rw [h.ports, ← hs]
      rfl
    rwa [State.ports, h.only.active] at hports
  · exact h.only.others k hk

/-- Settles O17: the step is the DECODE of the held inputs, which changes no port that is settled. -/
theorem heldInputsGiveTheSameOutputs : Obligations.HeldInputsGiveTheSameOutputs := by
  unfold Obligations.HeldInputsGiveTheSameOutputs
  intro s hp
  obtain ⟨t, -, hstep, hd⟩ := step_of_held hp
  exact ⟨t, hstep, hd.only, hd.out, fun hinv => hd.portsOf_of_settled (hinv.settled s.active)⟩

end Sys2Proof.Machine
end

section
/-! Runs over a whole stimulus program: one event a stimulus, in order, and what reordering the program does to them. -/

namespace Sys2Proof.Machine

theorem frameWord_of_wellFormed {x : Stimulus} (h : x.wellFormed = true) : ∃ w, frameWord x.bytes = .ok w :=
  frameWord_of_length (Stimulus.length_of_wellFormed h)

theorem eventsOf_cons {x : Stimulus} {w : Word} (hw : frameWord x.bytes = .ok w) (rest : List Stimulus) (k : Nat) :
    eventsOf (x :: rest) k = decodeEvent x w k :: eventsOf rest (omittedAfter x k) := by
  simp only [eventsOf, hw, decodeEvent]

/-- A well-formed program has one event a stimulus, however many timestamps were left out before it. -/
theorem eventsOf_length (l : List Stimulus) (h : ∀ x ∈ l, x.wellFormed = true) (k : Nat) : (eventsOf l k).length = l.length := by
  induction l generalizing k with
  | nil => rfl
  | cons x rest ih =>
    obtain ⟨hx, hrest⟩ := List.forall_mem_cons.mp h
    obtain ⟨w, hw⟩ := frameWord_of_wellFormed hx
    rw [eventsOf_cons hw, List.length_cons, List.length_cons, ih hrest]

/-- A run over a well-formed program completes and adds the program's events. -/
theorem run_pending {s : State} {l : List Stimulus} (hp : s.pending = l) (h : ∀ x ∈ l, x.wellFormed = true) :
    ∃ t, Host.Core.run Sys2Proof.core l.length s = .next t ∧ t.pending = [] ∧ t.events = s.events ++ eventsOf l s.freeCount := by
  induction l generalizing s with
  | nil => exact ⟨s, rfl, hp, (List.append_nil _).symm⟩
  | cons x rest ih =>
    obtain ⟨hx, hrest⟩ := List.forall_mem_cons.mp h
    obtain ⟨w, hw⟩ := frameWord_of_wellFormed hx
    obtain ⟨u, -, hstep, hd⟩ := step_of_frame hp hw
    obtain ⟨t, hrun, htp, hte⟩ := ih hd.pending hrest
    refine ⟨t, (core_run_succ hstep _).trans hrun, htp, ?_⟩
    rw [hte, hd.events, hd.freeCount, eventsOf_cons hw, List.append_assoc, List.singleton_append]

/-- Settles O18: `run_pending` for the events, `eventsOf_length` for their number. -/
theorem runObservesOneReadingPerStimulus : Obligations.RunObservesOneReadingPerStimulus := by
  unfold Obligations.RunObservesOneReadingPerStimulus
  intro s h
  obtain ⟨t, hrun, htp, hte⟩ := run_pending rfl h
  exact ⟨t, hrun, htp, hte, eventsOf_length _ h _⟩

/-- The event of the stimulus x when k timestamps have been left out before it, or none where x is no frame. -/
def eventAt (k : Nat) (x : Stimulus) : Option Event :=
  match frameWord x.bytes with
  | .error _ => none
  | .ok w => some (decodeEvent x w k)

theorem omittedAfter_of_isSome {x : Stimulus} (h : x.now.isSome = true) (k : Nat) : omittedAfter x k = k := by
  obtain ⟨n, hn⟩ := Option.isSome_iff_exists.mp h
  simp only [omittedAfter, hn]

/-- Where every timestamp is given, a stimulus's event does not depend on its place in the program. -/
theorem eventsOf_eq_filterMap {l : List Stimulus} (h : ∀ x ∈ l, x.wellFormed = true ∧ x.now.isSome = true) (k : Nat) :
    eventsOf l k = l.filterMap (eventAt k) := by
  induction l with
  | nil => rfl
  | cons x rest ih =>
    obtain ⟨⟨hx, hnow⟩, hrest⟩ := List.forall_mem_cons.mp h
    obtain ⟨w, hw⟩ := frameWord_of_wellFormed hx
    rw [eventsOf_cons hw, omittedAfter_of_isSome hnow, ih hrest]
    simp only [List.filterMap_cons, eventAt, hw]

/-- Settles O20: each run adds its program's events, and these are the same function of each stimulus in both orders. -/
theorem reorderingChangesNoReading : Obligations.ReorderingChangesNoReading := by
  unfold Obligations.ReorderingChangesNoReading
  intro s l l' hperm h
  have h' : ∀ x ∈ l', x.wellFormed = true ∧ x.now.isSome = true := fun x hx => h x (hperm.mem_iff.mpr hx)
  have hwf : ∀ x ∈ l, x.wellFormed = true := fun x hx => (h x hx).1
  obtain ⟨t, hrun, -, hte⟩ := run_pending (s := { s with pending := l }) rfl hwf
  obtain ⟨t', hrun', -, hte'⟩ := run_pending (s := { s with pending := l' }) rfl fun x hx => (h' x hx).1
  refine ⟨t, t', _, _, hrun, hrun', hte, hte', ?_, eventsOf_length l hwf _⟩
  rw [eventsOf_eq_filterMap h, eventsOf_eq_filterMap h']
  exact hperm.filterMap _

end Sys2Proof.Machine
end

section
/-! One frame presented over and over at one unit (R55): the run adds one event, repeated. -/

namespace Sys2Proof.Machine

/-- A frame with its timestamp given, presented n times, is n times the same event. -/
theorem eventsOf_replicate {x : Stimulus} {w : Word} (hw : frameWord x.bytes = .ok w) (hnow : x.now.isSome = true) (n k : Nat) :
    eventsOf (List.replicate n x) k = List.replicate n (decodeEvent x w k) := by
  induction n with
  | zero => rfl
  | succ n ih => rw [List.replicate_succ, List.replicate_succ, eventsOf_cons hw, omittedAfter_of_isSome hnow, ih]

/-- Settles O19: `run_pending` adds the program's events, and `eventsOf_replicate` says they are n times the one of the word and
timestamp. -/
theorem repeatedFrameGivesTheSameReading : Obligations.RepeatedFrameGivesTheSameReading := by
  unfold Obligations.RepeatedFrameGivesTheSameReading
  intro s u w now n hp
  have hwf : ∀ x ∈ s.pending, x.wellFormed = true := by
    rw [hp]
    exact fun x hx => List.eq_of_mem_replicate hx ▸ rfl
  have hw : frameWord (Stimulus.bytes { unit := u, frame := .word w, now := some now }) = .ok w := frameWord_bytesOfWord w
  obtain ⟨t, hrun, -, hte⟩ := run_pending rfl hwf
  rw [hp, List.length_replicate] at hrun
  rw [hp, eventsOf_replicate hw rfl] at hte
  exact ⟨t, _, hrun, hte, rfl, rfl, rfl, rfl⟩

end Sys2Proof.Machine
end

section
/-! R71, R72, R78: decoding, encoding, and the field map in byte arithmetic. -/

namespace Sys2Proof

/-- Settles O5: the byte order and the field map each undo themselves in both directions. -/
theorem decodeAndEncodeAgree : Obligations.DecodeAndEncodeAgree := by
  unfold Obligations.DecodeAndEncodeAgree
  constructor
  · intro f
    rw [decode_bytesOfWord, decodeWord, encode_eq_word, frameOfWord_word, Instr.frame]
  · intro w
    exact ⟨frameOfWord w, decode_bytesOfWord w, word_frameOfWord w⟩

/-- Settles O6: each constructor's row round trip. -/
theorem everyRowReadsItsOwnOperationBack : Obligations.EveryRowReadsItsOwnOperationBack := by
  unfold Obligations.EveryRowReadsItsOwnOperationBack
  intro i
  cases i with
  | decode f => exact Laws.RowRoundTrip.decode f
  | classify f => exact Laws.RowRoundTrip.classify f
  | classifyNone f => exact Laws.RowRoundTrip.classifyNone f
  | classifyOc f => exact Laws.RowRoundTrip.classifyOc f
  | classifyScg f => exact Laws.RowRoundTrip.classifyScg f
  | classifyScv f => exact Laws.RowRoundTrip.classifyScv f
  | classifyUnknown f => exact Laws.RowRoundTrip.classifyUnknown f
  | extractInt f => exact Laws.RowRoundTrip.extractInt f
  | extractTc f => exact Laws.RowRoundTrip.extractTc f

/-- R9 in byte arithmetic. -/
theorem wordOfBytes_toNat (b0 b1 b2 b3 : Byte) :
    (wordOfBytes b0 b1 b2 b3).toNat = b0.toNat * 2 ^ 24 + b1.toNat * 2 ^ 16 + b2.toNat * 2 ^ 8 + b3.toNat := by
  have happend {n : Nat} (x : BitVec n) (y : Byte) : (x ++ y).toNat = x.toNat * 2 ^ 8 + y.toNat := by
    rw [BitVec.toNat_append, ← Nat.shiftLeft_add_eq_or_of_lt y.isLt, Nat.shiftLeft_eq]
  rw [wordOfBytes, happend, happend, happend]
  omega

/-- A bit range of a word as a quotient and a remainder. -/
theorem extractLsb'_toNat_eq_div_mod (w : Word) (lo n : Nat) : (w.extractLsb' lo n).toNat = w.toNat / 2 ^ lo % 2 ^ n := by
  rw [BitVec.extractLsb'_toNat, Nat.shiftRight_eq_div_pow]

/-- R72: `int_word` of a word laid out from four bytes, in byte arithmetic. -/
theorem intWord_wordOfBytes (b0 b1 b2 b3 : Byte) :
    (frameOfWord (wordOfBytes b0 b1 b2 b3)).intWord.toNat = intWordOfBytes b0 b1 := by
  have hlow : (b0 &&& 0x0F#8).toNat = b0.toNat % 2 ^ 4 := Nat.and_two_pow_sub_one_eq_mod b0.toNat 4
  rw [frameOfWord, extractLsb'_toNat_eq_div_mod, wordOfBytes_toNat, intWordOfBytes, hlow]
  omega

/-- R72: `tc_word` of a word laid out from four bytes, in byte arithmetic. -/
theorem tcWord_wordOfBytes (b0 b1 b2 b3 : Byte) :
    (frameOfWord (wordOfBytes b0 b1 b2 b3)).tcWord.toNat = tcWordOfBytes b2 b3 := by
  have hlow : (b2 &&& 0x7F#8).toNat = b2.toNat % 2 ^ 7 := Nat.and_two_pow_sub_one_eq_mod b2.toNat 7
  rw [frameOfWord, extractLsb'_toNat_eq_div_mod, wordOfBytes_toNat, tcWordOfBytes, hlow]
  omega

/-- Settles O9: the single-bit fields are bits of their byte by `wordOfBytes_getLsbD`, the two numeric fields by their byte
arithmetic. -/
theorem fieldsAreBitRangesAndByteArithmetic : Obligations.FieldsAreBitRangesAndByteArithmetic := by
  unfold Obligations.FieldsAreBitRangesAndByteArithmetic
  intro b0 b1 b2 b3
  have hbit (k j : Nat) (hk : k < 4) (hj : j < 8) := wordOfBytes_getLsbD b0 b1 b2 b3 hk hj
  exact ⟨wordOfBytes b0 b1 b2 b3, frameOfWord (wordOfBytes b0 b1 b2 b3), rfl, rfl,
    rfl, hbit 0 7 (by decide) (by decide), rfl, hbit 0 6 (by decide) (by decide),
    rfl, hbit 0 5 (by decide) (by decide), rfl, hbit 0 4 (by decide) (by decide),
    extractLsb'_toNat_eq_div_mod _ 16 12, intWord_wordOfBytes b0 b1 b2 b3,
    rfl, hbit 2 7 (by decide) (by decide),
    extractLsb'_toNat_eq_div_mod _ 1 14, tcWord_wordOfBytes b0 b1 b2 b3,
    rfl, hbit 3 0 (by decide) (by decide)⟩

end Sys2Proof
end

section
/-! R79: the five CLASSIFY.* cases as one operation for each FaultKind, disjoint and covering every frame. -/

namespace Sys2Proof

/-! ## Each case's fixed bits as a mask and a match over W -/

theorem and_mask_none_iff (w : Word) : w &&& 0x00008000#32 = 0x00000000#32 ↔ w.getLsbD 15 = false := by
  have h := admits_none (frameOfWord w)
  rwa [word_frameOfWord, Frame.isNone, Bool.not_eq_true'] at h

theorem and_mask_oc_iff (w : Word) :
    w &&& 0x80008000#32 = 0x80008000#32 ↔ w.getLsbD 15 = true ∧ w.getLsbD 31 = true := by
  have h := admits_oc (frameOfWord w)
  rwa [word_frameOfWord, Frame.isOc, Bool.and_eq_true] at h

theorem and_mask_scg_iff (w : Word) :
    w &&& 0xC0008000#32 = 0x40008000#32 ↔ w.getLsbD 15 = true ∧ w.getLsbD 31 = false ∧ w.getLsbD 30 = true := by
  have h := admits_scg (frameOfWord w)
  rwa [word_frameOfWord, Frame.isScg, Bool.and_eq_true, Bool.and_eq_true, Bool.not_eq_true', and_assoc] at h

theorem and_mask_scv_iff (w : Word) :
    w &&& 0xE0008000#32 = 0x20008000#32 ↔
      w.getLsbD 15 = true ∧ w.getLsbD 31 = false ∧ w.getLsbD 30 = false ∧ w.getLsbD 29 = true := by
  have h := admits_scv (frameOfWord w)
  rwa [word_frameOfWord, Frame.isScv, Bool.and_eq_true, Bool.and_eq_true, Bool.and_eq_true, Bool.not_eq_true',
    Bool.not_eq_true', and_assoc, and_assoc] at h

theorem and_mask_unknown_iff (w : Word) :
    w &&& 0xE0008000#32 = 0x00008000#32 ↔
      w.getLsbD 15 = true ∧ w.getLsbD 31 = false ∧ w.getLsbD 30 = false ∧ w.getLsbD 29 = false := by
  have h := admits_unknown (frameOfWord w)
  rwa [word_frameOfWord, Frame.isUnknown, Bool.and_eq_true, Bool.and_eq_true, Bool.and_eq_true, Bool.not_eq_true',
    Bool.not_eq_true', Bool.not_eq_true', and_assoc, and_assoc] at h

end Sys2Proof

namespace Sys2Proof.Machine

/-! ## The case operation of a FaultKind -/

/-- The CLASSIFY.* operation whose case is k, applied to f. -/
def FaultKind.caseOp : FaultKind → Frame → Instr
  | .none, f => .classifyNone f
  | .openCircuit, f => .classifyOc f
  | .shortToGround, f => .classifyScg f
  | .shortToPower, f => .classifyScv f
  | .unknown, f => .classifyUnknown f

/-- The five FaultKinds, in the order the table lists their cases. -/
def FaultKind.all : List FaultKind := [.none, .openCircuit, .shortToGround, .shortToPower, .unknown]

theorem FaultKind.mem_all (k : FaultKind) : k ∈ FaultKind.all := by
  cases k <;> decide

/-- The five case operations are different operations: they stand in different rows. -/
theorem FaultKind.nodup_map_caseOp (f : Frame) : (FaultKind.all.map fun k => k.caseOp f).Nodup :=
  List.Nodup.of_map Instr.rowNumber (show [2, 3, 4, 5, 6].Nodup by decide)

/-- A frame has the fixed bits of exactly one case, the one CLASSIFY selects (R79, R100): each branch of the priority chain fixes
the bits that every case's condition reads. -/
theorem FaultKind.caseOp_wellFormed_iff (k : FaultKind) (f : Frame) : (k.caseOp f).wellFormed = true ↔ classify f = k := by
  unfold classify
  cases k
  all_goals
    simp only [caseOp, Instr.wellFormed, Frame.isNone, Frame.isOc, Frame.isScg, Frame.isScv, Frame.isUnknown]
    split_ifs with hflag hoc hscg hscv
  all_goals simp [*]

/-- Reading a laid-out frame as a row that admits exactly the frames well formed for it. -/
theorem readAsRow_eq_ite {n : Nat} {r : TableRow} (hr : tableRows[n]? = some r) (f : Frame)
    (h : f.word &&& r.mask = r.pattern ↔ (r.build f).wellFormed = true) :
    readAsRow n f.word = if (r.build f).wellFormed then some (r.build f) else none := by
  simp only [readAsRow, hr, TableRow.read, TableRow.admits, beq_iff_eq, h, frameOfWord_word]

/-- A frame read as k's row: k's case operation where the frame has k's fixed bits. -/
theorem readAsRow_caseOp (k : FaultKind) (f : Frame) :
    readAsRow (k.caseOp f).rowNumber f.word = if (k.caseOp f).wellFormed then some (k.caseOp f) else none := by
  cases k with
  | none => exact readAsRow_eq_ite (r := tableRows[2]) rfl f (admits_none f)
  | openCircuit => exact readAsRow_eq_ite (r := tableRows[3]) rfl f (admits_oc f)
  | shortToGround => exact readAsRow_eq_ite (r := tableRows[4]) rfl f (admits_scg f)
  | shortToPower => exact readAsRow_eq_ite (r := tableRows[5]) rfl f (admits_scv f)
  | unknown => exact readAsRow_eq_ite (r := tableRows[6]) rfl f (admits_unknown f)

/-- Of the five case rows a frame matches the one CLASSIFY selects. -/
theorem filterMap_readAsRow_cases (f : Frame) :
    [2, 3, 4, 5, 6].filterMap (fun n => readAsRow n f.word) = [(classify f).caseOp f] := by
  calc [2, 3, 4, 5, 6].filterMap (fun n => readAsRow n f.word)
    _ = FaultKind.all.filterMap fun k => readAsRow (k.caseOp f).rowNumber f.word := rfl
    _ = FaultKind.all.filterMap fun k => if classify f = k then some (k.caseOp f) else none := by
      simp only [readAsRow_caseOp, FaultKind.caseOp_wellFormed_iff]
    _ = [(classify f).caseOp f] := by cases classify f <;> rfl

/-- The rows a frame matches: DECODE, CLASSIFY, the case CLASSIFY selects, EXTRACT_INT and EXTRACT_TC (R79). -/
theorem operationsOf_word (f : Frame) :
    operationsOf f.word = [.decode f, .classify f, (classify f).caseOp f, .extractInt f, .extractTc f] := by
  have hrows : operationsOf f.word =
      [0, 1].filterMap (readAsRow · f.word) ++ [2, 3, 4, 5, 6].filterMap (readAsRow · f.word) ++
        [7, 8].filterMap (readAsRow · f.word) := by
    rw [← List.filterMap_append, ← List.filterMap_append]
    rfl
  have hdecode : readAsRow 0 f.word = some (.decode f) := Laws.RowRoundTrip.decode f rfl
  have hclassify : readAsRow 1 f.word = some (.classify f) := Laws.RowRoundTrip.classify f rfl
  have hint : readAsRow 7 f.word = some (.extractInt f) := Laws.RowRoundTrip.extractInt f rfl
  have htc : readAsRow 8 f.word = some (.extractTc f) := Laws.RowRoundTrip.extractTc f rfl
  rw [hrows, filterMap_readAsRow_cases]
  simp only [List.filterMap_cons, List.filterMap_nil, hdecode, hclassify, hint, htc, List.cons_append, List.nil_append]

/-- Settles O7: the five masks by the case rows' conditions, and the operations by `operationsOf_word`, whose case is CLASSIFY's
priority chain over the same bits. -/
theorem framePassesThroughExactlyOneCase : Obligations.FramePassesThroughExactlyOneCase := by
  unfold Obligations.FramePassesThroughExactlyOneCase
  intro w
  refine ⟨and_mask_none_iff w, and_mask_oc_iff w, and_mask_scg_iff w, and_mask_scv_iff w, and_mask_unknown_iff w, ?_⟩
  have hops := operationsOf_word (frameOfWord w)
  rw [word_frameOfWord] at hops
  rw [hops]
  simp only [classify, apply_ite FaultKind.caseOp, ite_apply]
  rfl

/-! ## Running the cases -/

/-- A case operation drives its code where the frame has its fixed bits (R101 to R105). -/
theorem exec_caseOp (k : FaultKind) (f : Frame) (s : State) :
    exec (k.caseOp f) s = .next (driveCase (k.caseOp f).wellFormed k s) := by
  cases k <;> rfl

theorem exec_caseOp_classify (f : Frame) (s : State) : exec ((classify f).caseOp f) s = exec (.classify f) s := by
  rw [exec_caseOp, (FaultKind.caseOp_wellFormed_iff _ f).mpr rfl]
  rfl

theorem exec_caseOp_of_ne {k : FaultKind} {f : Frame} (h : classify f ≠ k) (s : State) : exec (k.caseOp f) s = .next s := by
  have hoff : (k.caseOp f).wellFormed = false := Bool.eq_false_iff.mpr (mt (FaultKind.caseOp_wellFormed_iff k f).mp h)
  rw [exec_caseOp, hoff]
  rfl

/-- Operations that each do nothing do nothing one after the other. -/
theorem execAll_of_idle {l : List Instr} (h : ∀ i ∈ l, ∀ s, exec i s = .next s) (s : State) : execAll l s = .next s := by
  induction l with
  | nil => rfl
  | cons i rest ih =>
    obtain ⟨hi, hrest⟩ := List.forall_mem_cons.mp h
    simp only [execAll, hi, ih hrest]

/-- A list without repetitions in which only the operation c does anything runs as c. -/
theorem execAll_eq_exec {l : List Instr} {c : Instr} (hc : c ∈ l) (hnodup : l.Nodup)
    (hidle : ∀ i ∈ l, i ≠ c → ∀ s, exec i s = .next s) (s : State) : execAll l s = exec c s := by
  induction l with
  | nil => cases hc
  | cons i rest ih =>
    obtain ⟨hi, hrest⟩ := List.nodup_cons.mp hnodup
    obtain ⟨hidlei, hidlerest⟩ := List.forall_mem_cons.mp hidle
    obtain rfl | hc := List.mem_cons.mp hc
    · have hothers := execAll_of_idle fun j hj => hidlerest j hj (ne_of_mem_of_not_mem hj hi)
      rw [execAll]
      cases exec c s with
      | next t => exact hothers t
      | fault r => rfl
      | refused r => rfl
    · simp only [execAll, hidlei (ne_of_mem_of_not_mem hc hi).symm, ih hc hrest hidlerest]

/-- Settles O30: in any order of the cases only the one CLASSIFY selects does anything, and it does what CLASSIFY does. -/
theorem fiveCasesInAnyOrderAreClassify : Obligations.FiveCasesInAnyOrderAreClassify := by
  unfold Obligations.FiveCasesInAnyOrderAreClassify
  intro f s l hperm
  have hl : l.Perm (FaultKind.all.map fun k => k.caseOp f) := hperm
  have hidle : ∀ i ∈ l, i ≠ (classify f).caseOp f → ∀ s, exec i s = .next s := by
    intro i hi hne
    obtain ⟨k, -, rfl⟩ := List.mem_map.mp (hl.mem_iff.mp hi)
    exact exec_caseOp_of_ne fun h => hne (h ▸ rfl)
  have hmem : (classify f).caseOp f ∈ l := hl.mem_iff.mpr (List.mem_map_of_mem (classify f).mem_all)
  have hnodup : l.Nodup := hl.nodup_iff.mpr (FaultKind.nodup_map_caseOp f)
  exact ⟨_, (execAll_eq_exec hmem hnodup hidle s).trans (exec_caseOp_classify f s), rfl⟩

end Sys2Proof.Machine
end

section
/-! R80: the codes 0 to 4, and no other code on any `fault` port an operation drives or in any event a step adds. -/

namespace Sys2Proof.Machine

theorem FaultKind.code_toNat_le (k : FaultKind) : k.code.toNat ≤ 4 := by
  cases k <;> decide

theorem faultKindOfCode_code (k : FaultKind) : faultKindOfCode k.code = some k := by
  cases k <;> rfl

theorem faultKindOfCode_eq_none_iff (c : BitVec 3) : faultKindOfCode c = none ↔ 5 ≤ c.toNat := by
  revert c
  decide

/-- A case operation leaves `fault` as it was or drives a code. -/
theorem driveCase_fault (c : Bool) (k : FaultKind) (s : State) :
    (driveCase c k s).ports.out.fault = s.ports.out.fault ∨ (driveCase c k s).ports.out.fault.toNat ≤ 4 := by
  obtain ⟨-, h⟩ | ⟨-, h⟩ := driveCase_cases c k s
  · rw [h, State.driveFault_out]
    exact .inr k.code_toNat_le
  · exact .inl (by rw [h])

/-- Every operation leaves `fault` as it was or drives a code. -/
theorem exec_fault (i : Instr) (s : State) :
    ∃ t, exec i s = .next t ∧ (t.ports.out.fault = s.ports.out.fault ∨ t.ports.out.fault.toNat ≤ 4) := by
  cases i with
  | decode f =>
    obtain ⟨t, ht, hout, -⟩ := execDecode_next f s
    exact ⟨t, ht, .inr (by rw [hout]; exact (classify _).code_toNat_le)⟩
  | classify f => exact ⟨_, rfl, .inr (by rw [State.driveFault_out]; exact (classify f).code_toNat_le)⟩
  | classifyNone f => exact ⟨_, rfl, driveCase_fault _ _ _⟩
  | classifyOc f => exact ⟨_, rfl, driveCase_fault _ _ _⟩
  | classifyScg f => exact ⟨_, rfl, driveCase_fault _ _ _⟩
  | classifyScv f => exact ⟨_, rfl, driveCase_fault _ _ _⟩
  | classifyUnknown f => exact ⟨_, rfl, driveCase_fault _ _ _⟩
  | extractInt f => exact ⟨_, rfl, .inl (by rw [State.driveIntRaw_out])⟩
  | extractTc f => exact ⟨_, rfl, .inl (by rw [State.driveTcRaw_out])⟩

theorem EventSound.fault_toNat_le {e : Event} (h : EventSound e) : e.reading.fault.toNat ≤ 4 := by
  rw [h]
  exact (classify _).code_toNat_le

/-- Settles O32: the table of codes, `exec_fault` for the operations, and for a step that it adds sound events only. -/
theorem faultCodesAreZeroToFour : Obligations.FaultCodesAreZeroToFour := by
  unfold Obligations.FaultCodesAreZeroToFour
  refine ⟨rfl, rfl, rfl, rfl, rfl, faultKindOfCode_eq_none_iff, faultKindOfCode_code, exec_fault, ?_⟩
  intro s t h
  exact (step_evaluated h).forall_events (fun _ he => .inr he.fault_toNat_le) fun _ he => .inl he

end Sys2Proof.Machine
end

section
/-! R84, D25, X14: where the test-side encoders are defined. -/

namespace Sys2Proof

/-- R84's grid: the integers times res. -/
theorem gridIndex_eq_some_iff {res : Rat} (hres : res ≠ 0) (t : Rat) (r : Int) : gridIndex res t = some r ↔ t = r * res := by
  rw [← div_eq_iff hres, gridIndex]
  constructor
  · intro h
    split at h
    case isTrue hden => rw [← Option.some.inj h, Rat.coe_int_num_of_den_eq_one hden]
    case isFalse => cases h
  · intro h
    rw [h, Rat.den_intCast, if_pos rfl, Rat.num_intCast]

/-- enc_int gives a frame at the grid points of its range (R84, D25). -/
theorem exists_encInt_iff (t : Rat) :
    (∃ bs, encInt t = some bs) ↔ ∃ r, gridIndex (1 / 16) t = some r ∧ -2048 ≤ r ∧ r ≤ 2047 := by
  unfold encInt
  cases gridIndex (1 / 16) t with
  | none => simp
  | some r => by_cases hr : -2048 ≤ r ∧ r ≤ 2047 <;> simp [hr]

/-- enc_tc gives a frame at the grid points of its range (R84, D25). -/
theorem exists_encTc_iff (t : Rat) :
    (∃ bs, encTc t = some bs) ↔ ∃ r, gridIndex (1 / 4) t = some r ∧ -8192 ≤ r ∧ r ≤ 8191 := by
  unfold encTc
  cases gridIndex (1 / 4) t with
  | none => simp
  | some r => by_cases hr : -8192 ≤ r ∧ r ≤ 8191 <;> simp [hr]

/-- Settles O42: each encoder is defined at the grid points of its range, and those are the integers over 16 and over 4. -/
theorem encodersAreDefinedOnTheGridOnly : Obligations.EncodersAreDefinedOnTheGridOnly := by
  unfold Obligations.EncodersAreDefinedOnTheGridOnly
  intro t
  rw [exists_encInt_iff, exists_encTc_iff]
  constructor
  · simp only [gridIndex_eq_some_iff (show (1 / 16 : Rat) ≠ 0 by norm_num), mul_one_div]
  · simp only [gridIndex_eq_some_iff (show (1 / 4 : Rat) ≠ 0 by norm_num), mul_one_div]

end Sys2Proof
end

section
/-! The host's table words (log 6, 18). -/

namespace Sys2Proof.Machine

/-- Bits at or above 32 of a table word are not in W. -/
theorem tableBytes_eq_bytesOfWord (w : Nat) : tableBytes 32 w = bytesOfWord (BitVec.ofNat 32 w) :=
  congrArg bytesOfWord (BitVec.eq_of_toNat_eq (Nat.mod_mod w (2 ^ 32)))

/-- Settles O22: the placed stimulus is a frame pending, whose step is `step_of_frame`. -/
theorem tableWordIsTheNextFrame : Obligations.TableWordIsTheNextFrame := by
  unfold Obligations.TableWordIsTheNextFrame
  intro s w
  have hdecode : decodeTableWord 32 w = some (decodeWord (BitVec.ofNat 32 w)) := by
    rw [decodeTableWord, tableBytes_eq_bytesOfWord, decode_bytesOfWord]
  have hframe : frameWord (tableBytes 32 w) = .ok (BitVec.ofNat 32 w) := by
    rw [tableBytes_eq_bytesOfWord, frameWord_bytesOfWord]
  obtain ⟨u, -, hstep, hd⟩ := step_of_frame (s := s.withFetchWord 32 w) rfl hframe
  exact ⟨_, _, hdecode, hstep, hd.pending, hd.events, rfl⟩

end Sys2Proof.Machine
end

section
/-! R100 to R108: what CLASSIFY and each of its cases do over the bits of W, and the message a consumer derives from `fault`. -/

namespace Sys2Proof.Machine

/-! ## CLASSIFY -/

/-- CLASSIFY drives the code of its classification (R100). -/
theorem exec_classify (f : Frame) (s : State) : exec (.classify f) s = .next (s.driveFault (classify f).code) := rfl

/-- Settles O23: CLASSIFY drives one code, and `classify_code` says which over the bits of W. -/
theorem classifyDrivesFaultByPriority : Obligations.ClassifyDrivesFaultByPriority := by
  unfold Obligations.ClassifyDrivesFaultByPriority
  intro f s
  refine ⟨f.word, _, (encode_eq_word (.classify f)).symm, exec_classify f s, .drive s _, ?_⟩
  rw [State.driveFault_out, ← classify_code, frameOfWord_word]

/-- The code CLASSIFY drives is a function of the four bits it reads (R108). -/
theorem classify_code_congr {w w' : Word} (h15 : w.getLsbD 15 = w'.getLsbD 15) (h31 : w.getLsbD 31 = w'.getLsbD 31)
    (h30 : w.getLsbD 30 = w'.getLsbD 30) (h29 : w.getLsbD 29 = w'.getLsbD 29) :
    (classify (frameOfWord w)).code = (classify (frameOfWord w')).code := by
  rw [classify_code, classify_code, h15, h31, h30, h29]

/-- In the frame whose only set bit is FAULT, flipping any of the four bits changes the code: a cause bit names its cause, and
without FAULT there is none. -/
theorem classify_code_flip_ne {b : Nat} (hb : b = 15 ∨ b = 29 ∨ b = 30 ∨ b = 31) :
    (classify (frameOfWord 0x00008000#32)).code ≠ (classify (frameOfWord (0x00008000#32 ^^^ (1#32 <<< b)))).code := by
  obtain rfl | rfl | rfl | rfl := hb
  all_goals decide

/-- Settles O31: `classify_code_congr` for the bits not read, `classify_code_flip_ne` for the four that are. -/
theorem classifyReadsFourBits : Obligations.ClassifyReadsFourBits := by
  unfold Obligations.ClassifyReadsFourBits
  constructor
  · intro w w' s h15 h31 h30 h29
    refine ⟨_, exec_classify _ s, ?_⟩
    rw [exec_classify, classify_code_congr h15 h31 h30 h29]
  · intro b hb
    refine ⟨0x00008000#32, fun s => ⟨_, _, exec_classify _ s, exec_classify _ s, ?_⟩⟩
    rw [State.driveFault_out, State.driveFault_out]
    exact classify_code_flip_ne hb

/-! ## The five cases -/

/-- What a case operation does (R101 to R105). The case's condition is given twice over W: as the row's mask and match, and as
the bits of W that its pseudocode tests. Where they hold, the case drives its code, and CLASSIFY selects this case. -/
theorem caseOp_next (k : FaultKind) (f : Frame) (s : State) {mask pattern : Word} {bits : Word → Prop}
    (hbits : ∀ w, w &&& mask = pattern ↔ bits w) (hrow : f.word &&& mask = pattern ↔ (k.caseOp f).wellFormed = true) :
    ∃ w t, w = encode (k.caseOp f) ∧ exec (k.caseOp f) s = .next t ∧ OnlyOutputs s t ∧ (w &&& mask = pattern ↔ bits w) ∧
      (bits w → t.ports.out = { s.ports.out with fault := k.code } ∧ exec (.classify f) s = .next t) := by
  have hword : f.word = encode (k.caseOp f) := by cases k <;> rfl
  refine ⟨f.word, _, hword, exec_caseOp k f s, .driveCase _ k s, hbits _, fun h => ?_⟩
  have hwf : (k.caseOp f).wellFormed = true := hrow.mp ((hbits _).mpr h)
  have hk : classify f = k := (FaultKind.caseOp_wellFormed_iff k f).mp hwf
  rw [hwf, exec_classify, hk]
  exact ⟨State.driveFault_out s k.code, rfl⟩

/-- Settles O24: `caseOp_next` for the bit W[15] clear. -/
theorem noneCaseIsFaultFlagClear : Obligations.NoneCaseIsFaultFlagClear :=
  fun f s => caseOp_next .none f s and_mask_none_iff (admits_none f)

/-- Settles O25: `caseOp_next` for W[15] and W[31]; neither W[30] nor W[29] is among the bits tested. -/
theorem ocCaseWinsWhateverScgAndScv : Obligations.OcCaseWinsWhateverScgAndScv :=
  fun f s => caseOp_next .openCircuit f s and_mask_oc_iff (admits_oc f)

/-- Settles O26: `caseOp_next` for W[15], W[31] and W[30]; W[29] is not among the bits tested. -/
theorem scgCaseWinsOverScv : Obligations.ScgCaseWinsOverScv :=
  fun f s => caseOp_next .shortToGround f s and_mask_scg_iff (admits_scg f)

/-- Settles O27: `caseOp_next` for W[15] and W[31:29]; W[0] is not among the bits tested. -/
theorem scvCaseIgnoresRepeatedScv : Obligations.ScvCaseIgnoresRepeatedScv :=
  fun f s => caseOp_next .shortToPower f s and_mask_scv_iff (admits_scv f)

/-- Settles O28: `caseOp_next` for W[15] and W[31:29]; neither W[28] nor W[0] is among the bits tested. -/
theorem unknownCaseIsNoCauseBit : Obligations.UnknownCaseIsNoCauseBit :=
  fun f s => caseOp_next .unknown f s and_mask_unknown_iff (admits_unknown f)

/-! ## Messages -/

/-- A consumer that finds k's code on `fault` derives k and k's message from it (R107, D7). -/
theorem readingOf_of_fault {o : Outputs} {k : FaultKind} (h : o.fault = k.code) :
    ∃ r, readingOf o = some r ∧ r.fault = k ∧ r.message = k.message := by
  have hk : faultKindOfCode o.fault = some k := by rw [h, faultKindOfCode_code]
  exact ⟨_, by rw [readingOf, hk], rfl, rfl⟩

/-- Settles O33: `readingOf_of_fault` at each FaultKind, whose `message` is the table's text. -/
theorem messagesAreTheTableOfTexts : Obligations.MessagesAreTheTableOfTexts :=
  fun _ => ⟨readingOf_of_fault, readingOf_of_fault, readingOf_of_fault, readingOf_of_fault, readingOf_of_fault⟩

end Sys2Proof.Machine
end

section
/-! R120 to R126: the sign of an N-bit word, the generic extractor over all its parameters, and exact scaling. -/

namespace Sys2Proof.Machine

/-! ## signed_N (R124) -/

/-- A word below the sign boundary is its own value. -/
theorem signedN_of_lt {n : Nat} (hn : 1 ≤ n) {u : BitVec n} (h : u.toNat < 2 ^ (n - 1)) : signedN u = u.toNat := by
  have hhalf : 2 * 2 ^ (n - 1) = 2 ^ n := mul_pow_sub_one (by omega) 2
  rw [signedN_eq_toInt]
  exact BitVec.toInt_eq_toNat_of_lt (by omega)

/-- A word from the sign boundary up has 2^N subtracted. -/
theorem signedN_of_ge {n : Nat} (hn : 1 ≤ n) {u : BitVec n} (h : 2 ^ (n - 1) ≤ u.toNat) :
    signedN u = (u.toNat : Int) - 2 ^ n := by
  have hhalf : 2 * 2 ^ (n - 1) = 2 ^ n := mul_pow_sub_one (by omega) 2
  rw [signedN_eq_toInt, BitVec.toInt_eq_toNat_cond, if_neg (by omega), Nat.cast_pow, Nat.cast_ofNat]

/-- Settles O34: the two sides of the sign boundary, and the library's facts about two's complement, which signed_N is. -/
theorem signedWordsAreTwosComplement : Obligations.SignedWordsAreTwosComplement := by
  unfold Obligations.SignedWordsAreTwosComplement
  intro n hn
  refine ⟨fun u => ⟨signedN_of_lt hn, signedN_of_ge hn, ?_⟩, ?_, ?_⟩
  · simp only [signedN_eq_toInt]
    exact ⟨BitVec.le_toInt u, BitVec.toInt_lt, fun m => BitVec.toInt_signExtend_of_le⟩
  · intro u v h
    rw [signedN_eq_toInt, signedN_eq_toInt] at h
    exact BitVec.eq_of_toInt_eq h
  · intro r hlo hhi
    exact ⟨BitVec.ofInt n r, (signedN_eq_toInt _).trans (BitVec.toInt_ofInt_eq_self hn hlo hhi)⟩

/-! ## EXTRACT (R120) -/

theorem rawWord_toNat (p : BitVec 16) (n s : Nat) : (rawWord p n s).toNat = p.toNat / 2 ^ (s + 1 - n) % 2 ^ n := by
  rw [rawWord, BitVec.extractLsb'_toNat, Nat.shiftRight_eq_div_pow]

/-- The raw word's top bit is P[S] where the field lies inside the pair. -/
theorem rawWord_top (p : BitVec 16) {n s : Nat} (hn : 1 ≤ n) (hs : n ≤ s + 1) :
    (rawWord p n s).getLsbD (n - 1) = p.getLsbD s := by
  have htop : s + 1 - n + (n - 1) = s := by omega
  rw [rawWord, BitVec.getLsbD_extractLsb', htop, decide_eq_true (by omega), Bool.true_and]

/-- EXTRACT's integer: the raw word, less 2^N where P[S] is set. -/
theorem signedN_rawWord (p : BitVec 16) {n s : Nat} (hn : 1 ≤ n) (hs : n ≤ s + 1) :
    signedN (rawWord p n s) =
      if p.getLsbD s then ((p.toNat / 2 ^ (s + 1 - n) % 2 ^ n : Nat) : Int) - 2 ^ n
      else (p.toNat / 2 ^ (s + 1 - n) % 2 ^ n : Nat) := by
  rw [signedN, rawWord_top p hn hs, rawWord_toNat]

theorem extractDefined_eq_true_iff (n s : Nat) : extractDefined n s = true ↔ 1 ≤ n ∧ n ≤ 16 ∧ s ≤ 15 ∧ n ≤ s + 1 := by
  simp only [extractDefined, Bool.and_eq_true, decide_eq_true_eq, and_assoc]

/-- Settles O35: the port carries the raw word's own bits, whose value `signedN_rawWord` gives. -/
theorem extractReconstructsThenScales : Obligations.ExtractReconstructsThenScales := by
  unfold Obligations.ExtractReconstructsThenScales
  intro p n s res hn hn16 hs15 hs
  refine ⟨rawWord p n s, signedN (rawWord p n s), ?_, (signedN_eq_toInt _).symm, signedN_rawWord p hn hs⟩
  rw [extractGeneric, if_pos ((extractDefined_eq_true_iff n s).mpr ⟨hn, hn16, hs15, hs⟩), extract_eq_rawWord, scaled]

/-! ## The °C values (R81, R126) -/

theorem internalTempC_eq (o : Outputs) : internalTempC o = (o.intRaw.toInt : Rat) * (1 / 16) := by
  rw [internalTempC, scaled, signedN_eq_toInt, intRes]

theorem thermocoupleTempC_eq (o : Outputs) : thermocoupleTempC o = (o.tcRaw.toInt : Rat) * (1 / 4) := by
  rw [thermocoupleTempC, scaled, signedN_eq_toInt, tcRes]

/-- Scaling keeps a range, its ends scaled. -/
theorem scaled_mem_range {r lo hi : Int} {res a b : Rat} (hres : 0 ≤ res) (hlo : lo ≤ r) (hhi : r ≤ hi) (ha : a = lo * res)
    (hb : b = hi * res) : a ≤ r * res ∧ r * res ≤ b := by
  subst ha hb
  exact ⟨mul_le_mul_of_nonneg_right (Int.cast_le.mpr hlo) hres, mul_le_mul_of_nonneg_right (Int.cast_le.mpr hhi) hres⟩

/-- Settles O40: a 12-bit and a 14-bit word have these ranges, and scaling keeps them. -/
theorem temperaturesAreExactAndInRange : Obligations.TemperaturesAreExactAndInRange := by
  unfold Obligations.TemperaturesAreExactAndInRange
  intro o
  have hintLo : -2048 ≤ o.intRaw.toInt := BitVec.le_toInt o.intRaw
  have hintHi : o.intRaw.toInt ≤ 2047 := Int.le_of_lt_add_one BitVec.toInt_lt
  have htcLo : -8192 ≤ o.tcRaw.toInt := BitVec.le_toInt o.tcRaw
  have htcHi : o.tcRaw.toInt ≤ 8191 := Int.le_of_lt_add_one BitVec.toInt_lt
  have hintC : -128 ≤ internalTempC o ∧ internalTempC o ≤ 2047 / 16 := by
    rw [internalTempC_eq]
    exact scaled_mem_range (by norm_num) hintLo hintHi (by norm_num) (by norm_num)
  have htcC : -2048 ≤ thermocoupleTempC o ∧ thermocoupleTempC o ≤ 8191 / 4 := by
    rw [thermocoupleTempC_eq]
    exact scaled_mem_range (by norm_num) htcLo htcHi (by norm_num) (by norm_num)
  exact ⟨internalTempC_eq o, hintLo, hintHi, hintC.left, hintC.right, thermocoupleTempC_eq o, htcLo, htcHi, htcC⟩

end Sys2Proof.Machine
end

section
/-! R122, R123, R129: what EXTRACT_INT and EXTRACT_TC drive, and the bits of W they read. -/

namespace Sys2Proof.Machine

theorem exec_extractInt (f : Frame) (s : State) : exec (.extractInt f) s = .next (s.driveIntRaw (extractInt f.word)) := rfl

theorem exec_extractTc (f : Frame) (s : State) : exec (.extractTc f) s = .next (s.driveTcRaw (extractTc f.word)) := rfl

/-- Settles O37: EXTRACT_INT drives one port, and `extractInt_toInt` says with what. -/
theorem extractIntDrivesSigned12 : Obligations.ExtractIntDrivesSigned12 := by
  unfold Obligations.ExtractIntDrivesSigned12
  intro f s
  refine ⟨f.word, _, extractInt f.word, rfl, exec_extractInt f s, .drive s _, s.driveIntRaw_out _, extractInt_toInt f.word, ?_⟩
  rw [internalTempC_eq, State.driveIntRaw_out]

/-- Settles O38: EXTRACT_TC drives one port, and `extractTc_toInt` says with what. -/
theorem extractTcDrivesSigned14 : Obligations.ExtractTcDrivesSigned14 := by
  unfold Obligations.ExtractTcDrivesSigned14
  intro f s
  refine ⟨f.word, _, extractTc f.word, rfl, exec_extractTc f s, .drive s _, s.driveTcRaw_out _, extractTc_toInt f.word, ?_⟩
  rw [thermocoupleTempC_eq, State.driveTcRaw_out]

/-- A bit range of a word is a function of the bits in it. -/
theorem extractLsb'_congr {w w' : Word} {lo n : Nat} (h : ∀ i, lo ≤ i → i < lo + n → w.getLsbD i = w'.getLsbD i) :
    w.extractLsb' lo n = w'.extractLsb' lo n := by
  apply BitVec.eq_of_getLsbD_eq
  intro i hi
  rw [BitVec.getLsbD_extractLsb', BitVec.getLsbD_extractLsb', h (lo + i) (by omega) (by omega)]

/-- EXTRACT_INT's raw word is a function of W[27:16]. -/
theorem extractInt_congr {w w' : Word} (h : ∀ i, 16 ≤ i → i ≤ 27 → w.getLsbD i = w'.getLsbD i) :
    extractInt w = extractInt w' := by
  rw [extractInt_eq_field, extractInt_eq_field]
  exact extractLsb'_congr fun i hlo hhi => h i hlo (Nat.le_of_lt_succ hhi)

/-- EXTRACT_TC's raw word is a function of W[14:1]. -/
theorem extractTc_congr {w w' : Word} (h : ∀ i, 1 ≤ i → i ≤ 14 → w.getLsbD i = w'.getLsbD i) :
    extractTc w = extractTc w' := by
  rw [extractTc_eq_field, extractTc_eq_field]
  exact extractLsb'_congr fun i hlo hhi => h i hlo (Nat.le_of_lt_succ hhi)

/-- Settles O39: each extractor drives its raw word, which is a function of its field. -/
theorem extractorsReadOnlyTheirFields : Obligations.ExtractorsReadOnlyTheirFields := by
  unfold Obligations.ExtractorsReadOnlyTheirFields
  intro w w' s
  constructor
  · intro h
    refine ⟨_, exec_extractInt _ s, ?_⟩
    rw [exec_extractInt, word_frameOfWord, word_frameOfWord, extractInt_congr h]
  · intro h
    refine ⟨_, exec_extractTc _ s, ?_⟩
    rw [exec_extractTc, word_frameOfWord, word_frameOfWord, extractTc_congr h]

end Sys2Proof.Machine
end

section
/-! R128: a temperature encoded by enc_int or enc_tc comes back from the machine exactly. -/

namespace Sys2Proof.Machine

/-! ## From the bytes of a frame to the integers it carries -/

/-- A word laid out as the residue of k is k in two's complement, where k is in the word's range. -/
theorem toInt_eq_of_toNat_eq_emod {n : Nat} {v : BitVec n} {k : Int} (hn : 0 < n) (hlo : -2 ^ (n - 1) ≤ k) (hhi : k < 2 ^ (n - 1))
    (h : v.toNat = (k % (2 ^ n : Nat)).toNat) : v.toInt = k := by
  have hv : v = BitVec.ofInt n k := BitVec.eq_of_toNat_eq (h.trans (BitVec.toNat_ofInt k).symm)
  rw [hv, BitVec.toInt_ofInt_eq_self hn hlo hhi]

/-- EXTRACT_INT of four bytes whose internal-temperature field is the residue of k (R72). -/
theorem extractInt_toInt_of_bytes {b0 b1 : Byte} (b2 b3 : Byte) {k : Int} (hlo : -2048 ≤ k) (hhi : k ≤ 2047)
    (h : intWordOfBytes b0 b1 = (k % 4096).toNat) : (extractInt (wordOfBytes b0 b1 b2 b3)).toInt = k := by
  rw [extractInt_eq_field]
  exact toInt_eq_of_toNat_eq_emod (by decide) hlo (Int.lt_add_one_of_le hhi) ((intWord_wordOfBytes b0 b1 b2 b3).trans h)

/-- EXTRACT_TC of four bytes whose thermocouple-temperature field is the residue of k (R72). -/
theorem extractTc_toInt_of_bytes (b0 b1 : Byte) {b2 b3 : Byte} {k : Int} (hlo : -8192 ≤ k) (hhi : k ≤ 8191)
    (h : tcWordOfBytes b2 b3 = (k % 16384).toNat) : (extractTc (wordOfBytes b0 b1 b2 b3)).toInt = k := by
  rw [extractTc_eq_field]
  exact toInt_eq_of_toNat_eq_emod (by decide) hlo (Int.lt_add_one_of_le hhi) ((tcWord_wordOfBytes b0 b1 b2 b3).trans h)

/-- W[15] is clear where byte 2 has its top bit clear. -/
theorem wordOfBytes_faultFlag_clear (b0 b1 : Byte) {b2 : Byte} (b3 : Byte) (h : b2.toNat < 128) :
    (wordOfBytes b0 b1 b2 b3).getLsbD 15 = false := by
  have hbit : (wordOfBytes b0 b1 b2 b3).getLsbD 15 = b2.getLsbD 7 :=
    wordOfBytes_getLsbD b0 b1 b2 b3 (k := 2) (j := 7) (by decide) (by decide)
  rw [hbit, ← BitVec.testBit_toNat, Nat.testBit_lt_two_pow h]

/-! ## The frames of the encoders (R84) -/

/-- The bytes enc_int lays the index m out in have m on the internal field. -/
theorem intWordOfBytes_ofNat {m : Nat} (hm : m < 4096) :
    intWordOfBytes (BitVec.ofNat 8 (m / 256)) (BitVec.ofNat 8 (m % 256)) = m := by
  have hlow (b : Byte) : (b &&& 0x0F#8).toNat = b.toNat % 2 ^ 4 := Nat.and_two_pow_sub_one_eq_mod b.toNat 4
  rw [intWordOfBytes, hlow, BitVec.toNat_ofNat, BitVec.toNat_ofNat]
  omega

/-- The bytes enc_tc lays the index m out in have m on the thermocouple field. -/
theorem tcWordOfBytes_ofNat {m : Nat} (hm : m < 16384) :
    tcWordOfBytes (BitVec.ofNat 8 (m / 128)) (BitVec.ofNat 8 (m % 128 * 2)) = m := by
  have hlow (b : Byte) : (b &&& 0x7F#8).toNat = b.toNat % 2 ^ 7 := Nat.and_two_pow_sub_one_eq_mod b.toNat 7
  rw [tcWordOfBytes, hlow, BitVec.toNat_ofNat, BitVec.toNat_ofNat]
  omega

/-- w is a frame without a fault that carries i on its internal and j on its thermocouple field. -/
structure CarriesTemps (w : Word) (i j : Int) : Prop where
  int : (extractInt w).toInt = i
  tc : (extractTc w).toInt = j
  faultFlag : w.getLsbD 15 = false

theorem encInt_carries {k : Int} (hlo : -2048 ≤ k) (hhi : k ≤ 2047) :
    ∃ bs w, encInt ((k : Rat) / 16) = some bs ∧ frameWord bs = .ok w ∧ CarriesTemps w k 0 := by
  have hgrid : gridIndex (1 / 16) ((k : Rat) / 16) = some k :=
    (gridIndex_eq_some_iff (by norm_num) _ _).mpr (div_eq_mul_one_div _ _)
  have hm : (k % 4096).toNat < 4096 := by omega
  refine ⟨_, _, by rw [encInt, hgrid]; exact if_pos ⟨hlo, hhi⟩, rfl, ?_⟩
  exact {
    int := extractInt_toInt_of_bytes _ _ hlo hhi (intWordOfBytes_ofNat hm)
    tc := extractTc_toInt_of_bytes _ _ (by decide) (by decide) rfl
    faultFlag := wordOfBytes_faultFlag_clear _ _ _ (by decide) }

theorem encTc_carries {k : Int} (hlo : -8192 ≤ k) (hhi : k ≤ 8191) :
    ∃ bs w, encTc ((k : Rat) / 4) = some bs ∧ frameWord bs = .ok w ∧ CarriesTemps w 0 k := by
  have hgrid : gridIndex (1 / 4) ((k : Rat) / 4) = some k :=
    (gridIndex_eq_some_iff (by norm_num) _ _).mpr (div_eq_mul_one_div _ _)
  have hm : (k % 16384).toNat < 16384 := by omega
  have hflag : (BitVec.ofNat 8 ((k % 16384).toNat / 128)).toNat < 128 := by
    rw [BitVec.toNat_ofNat]
    omega
  refine ⟨_, _, by rw [encTc, hgrid]; exact if_pos ⟨hlo, hhi⟩, rfl, ?_⟩
  exact {
    int := extractInt_toInt_of_bytes _ _ (by decide) (by decide) rfl
    tc := extractTc_toInt_of_bytes _ _ hlo hhi (tcWordOfBytes_ofNat hm)
    faultFlag := wordOfBytes_faultFlag_clear _ _ _ hflag }

/-! ## The machine on such a frame -/

/-- The Reading of DECODE: the fields' integers scaled, and the classification. -/
theorem readingOf_decodeReading (w : Word) (now : Timestamp) :
    ∃ r, readingOf (decodeReading w now) = some r ∧ r.internalTempC = ((extractInt w).toInt : Rat) * (1 / 16) ∧
      r.thermocoupleTempC = ((extractTc w).toInt : Rat) * (1 / 4) ∧ r.fault = classify (frameOfWord w) := by
  have hk : faultKindOfCode (decodeReading w now).fault = some (classify (frameOfWord w)) := faultKindOfCode_code _
  exact ⟨_, by rw [readingOf, hk], internalTempC_eq _, thermocoupleTempC_eq _, rfl⟩

/-- A step on a frame without a fault records a Reading of exactly the temperatures the frame carries. -/
theorem step_of_carriesTemps {bs : List Byte} {w : Word} {i j : Int} (hw : frameWord bs = .ok w) (hc : CarriesTemps w i j)
    (s : State) (u : Nat) (now : Timestamp) (rest : List Stimulus) :
    ∃ t o r, step { s with pending := { unit := u, frame := .bytes bs, now := some now } :: rest } = .next t ∧
      t.events = s.events ++ [{ unit := u, frame := w, now := now, reading := o }] ∧ readingOf o = some r ∧
      r.internalTempC = (i : Rat) * (1 / 16) ∧ r.thermocoupleTempC = (j : Rat) * (1 / 4) ∧ r.fault = .none := by
  obtain ⟨v, -, hstep, hd⟩ :=
    step_of_frame (s := { s with pending := { unit := u, frame := .bytes bs, now := some now } :: rest }) rfl hw
  obtain ⟨r, hr, hint, htc, hfault⟩ := readingOf_decodeReading w now
  rw [hc.int] at hint
  rw [hc.tc] at htc
  have hnone : classify (frameOfWord w) = .none := if_pos hc.faultFlag
  exact ⟨_, _, r, hstep, hd.events, hr, hint, htc, hfault.trans hnone⟩

/-- Settles O41: the encoder's frame carries the temperature's integer, and the machine reads off what the frame carries. -/
theorem encodedTemperaturesComeBackExactly : Obligations.EncodedTemperaturesComeBackExactly := by
  unfold Obligations.EncodedTemperaturesComeBackExactly
  constructor
  · intro k hlo hhi s u now rest
    obtain ⟨bs, w, henc, hw, hc⟩ := encInt_carries hlo hhi
    obtain ⟨t, o, r, hstep, hev, hr, hint, htc, hfault⟩ := step_of_carriesTemps hw hc s u now rest
    exact ⟨bs, w, t, o, r, henc, hw, hstep, hev, hr, hint.trans (mul_one_div _ _), htc.trans (by norm_num), hfault⟩
  · intro k hlo hhi s u now rest
    obtain ⟨bs, w, henc, hw, hc⟩ := encTc_carries hlo hhi
    obtain ⟨t, o, r, hstep, hev, hr, hint, htc, hfault⟩ := step_of_carriesTemps hw hc s u now rest
    exact ⟨bs, w, t, o, r, henc, hw, hstep, hev, hr, htc.trans (mul_one_div _ _), hint.trans (by norm_num), hfault⟩

end Sys2Proof.Machine
end

section
/-! R150 to R158: DECODE as one drive of all four output ports, the Reading a consumer derives from them, and the step that
records it. -/

namespace Sys2Proof.Machine

/-! ## Driving twice -/

theorem insertPorts_insertPorts (l : List (Nat × Ports)) (k : Nat) (p q : Ports) :
    insertPorts (insertPorts l k p) k q = insertPorts l k q := by
  induction l with
  | nil => simp [insertPorts]
  | cons a rest ih =>
    obtain ⟨j, r⟩ := a
    obtain hlt | rfl | hgt := Nat.lt_trichotomy k j
    · simp [insertPorts, hlt]
    · simp [insertPorts]
    · simp [insertPorts, hgt.not_gt, hgt.ne', ih]

/-- Driving the output ports twice is driving them once with both changes. -/
theorem State.drive_drive (s : State) (g h : Outputs → Outputs) : (s.drive g).drive h = s.drive (h ∘ g) := by
  rw [State.drive, State.drive_ports]
  exact congrArg (fun l => { s with instances := l }) (insertPorts_insertPorts s.instances s.active _ _)

/-! ## DECODE -/

/-- DECODE drives all four output ports with the words of R150. -/
theorem exec_decode (f : Frame) (s : State) :
    exec (.decode f) s = .next (s.drive fun _ => decodeReading f.word s.ports.now) := by
  simp only [exec, execDecode, State.driveFault, State.driveIntRaw, State.driveTcRaw, State.driveTimestamp, State.drive_drive]
  rw [decodeReading, frameOfWord_word]
  rfl

/-- The Reading a consumer derives where `fault` holds k's code (R30, R150). -/
theorem readingOf_eq_some {o : Outputs} (k : FaultKind) (h : o.fault = k.code) :
    readingOf o = some { internalTempC := internalTempC o, thermocoupleTempC := thermocoupleTempC o, fault := k,
                         message := k.message, timestamp := o.timestamp } := by
  simp only [readingOf, h, faultKindOfCode_code]

/-- Settles O43: `exec_decode` gives the four ports, each by its formula, and the Reading is derived from the code of CLASSIFY. -/
theorem decodeDrivesTheWholeReading : Obligations.DecodeDrivesTheWholeReading := by
  unfold Obligations.DecodeDrivesTheWholeReading
  intro f s
  refine ⟨f.word, _, extractInt f.word, extractTc f.word, classify (frameOfWord f.word), rfl, exec_decode f s, .drive s _,
    extractInt_toInt f.word, extractTc_toInt f.word, rfl, ?_⟩
  rw [State.drive_ports, Ports.withOut_out]
  refine ⟨rfl, ?_⟩
  rw [readingOf_eq_some (classify (frameOfWord f.word)) rfl, internalTempC_eq, thermocoupleTempC_eq]
  rfl

/-- CLASSIFY answers None exactly on the frames of CLASSIFY.NONE (R101). -/
theorem classify_eq_none_iff (f : Frame) : classify f = .none ↔ f.faultFlag = false := by
  rw [← FaultKind.caseOp_wellFormed_iff, ← Bool.not_eq_true']
  rfl

/-- Settles O46: the Reading's fault is CLASSIFY's answer, which is None exactly when FAULT is clear. -/
theorem faultNoneExactlyWhenFlagClear : Obligations.FaultNoneExactlyWhenFlagClear := by
  unfold Obligations.FaultNoneExactlyWhenFlagClear
  intro f s
  obtain ⟨r, hr, -, -, hfault⟩ := readingOf_decodeReading f.word s.ports.now
  refine ⟨_, r, exec_decode f s, ?_, ?_⟩
  · rw [State.drive_ports, Ports.withOut_out, hr]
  · rw [hfault, classify_eq_none_iff]
    rfl

theorem State.applyInputs_ports (s : State) (k : Nat) (w : Word) (now : Timestamp) :
    (s.applyInputs k w now).ports = (s.portsOf k).withInputs w now := by
  show (s.applyInputs k w now).portsOf k = _
  rw [State.applyInputs_portsOf, if_pos rfl]

/-- Settles O47: of the words DECODE drives only `timestamp` is made from `now`. -/
theorem onlyTimestampDependsOnNow : Obligations.OnlyTimestampDependsOnNow := by
  unfold Obligations.OnlyTimestampDependsOnNow
  intro f s now
  refine ⟨_, _, exec_decode f s, exec_decode f _, ?_⟩
  rw [State.drive_ports, State.drive_ports, State.applyInputs_ports]
  exact ⟨rfl, rfl, rfl⟩

/-! ## The bits DECODE ignores -/

/-- The mask of R156 leaves every bit but W[28] and W[0]. -/
theorem getLsbD_eq_of_xor_and_mask {w w' : Word} (h : (w ^^^ w') &&& 0xEFFFFFFE#32 = 0#32) {i : Nat} (hi : i < 32)
    (h0 : i ≠ 0) (h28 : i ≠ 28) : w.getLsbD i = w'.getLsbD i := by
  have hmask : ∀ i < 32, i ≠ 0 → i ≠ 28 → (0xEFFFFFFE#32).getLsbD i = true := by decide
  have hbit := (and_eq_iff_bits _ _ _).mp h i hi
  rw [hmask i hi h0 h28, Bool.and_true, BitVec.getLsbD_xor, BitVec.getLsbD_zero] at hbit
  exact bne_eq_false_iff_eq.mp hbit

/-- Settles O45: each word of R150 is a function of bits among those that agree. -/
theorem reservedAndRepeatedBitsAreIgnored : Obligations.ReservedAndRepeatedBitsAreIgnored := by
  unfold Obligations.ReservedAndRepeatedBitsAreIgnored
  intro w w' s h
  have hbit {i : Nat} (hi : i < 32) (h0 : i ≠ 0) (h28 : i ≠ 28) := getLsbD_eq_of_xor_and_mask h hi h0 h28
  have hint : extractInt w = extractInt w' := extractInt_congr fun i _ _ => hbit (by omega) (by omega) (by omega)
  have htc : extractTc w = extractTc w' := extractTc_congr fun i _ _ => hbit (by omega) (by omega) (by omega)
  have hfault : (classify (frameOfWord w)).code = (classify (frameOfWord w')).code :=
    classify_code_congr (hbit (by decide) (by decide) (by decide)) (hbit (by decide) (by decide) (by decide))
      (hbit (by decide) (by decide) (by decide)) (hbit (by decide) (by decide) (by decide))
  have hreading (now : Timestamp) : decodeReading w now = decodeReading w' now := by
    rw [decodeReading, decodeReading, hint, htc, hfault]
  refine ⟨_, exec_decode _ s, ?_⟩
  rw [exec_decode, word_frameOfWord, word_frameOfWord, hreading]

/-! ## The sub-operations in any order (R157) -/

/-- i and j answer the same in either order. -/
def OpsCommute (i j : Instr) : Prop := ∀ s : State, execAll [i, j] s = execAll [j, i] s

/-- Operations that commute answer the same in any order of the list. -/
theorem execAll_perm {l l' : List Instr} (hperm : l.Perm l') (hcomm : ∀ i ∈ l, ∀ j ∈ l, OpsCommute i j) (s : State) :
    execAll l s = execAll l' s := by
  induction hperm generalizing s with
  | nil => rfl
  | cons i _ ih =>
    obtain ⟨t, ht, -⟩ := exec_fault i s
    simp only [execAll, ht]
    exact ih (fun a ha b hb => hcomm a (.tail _ ha) b (.tail _ hb)) t
  | swap i j rest =>
    obtain ⟨t, ht, -⟩ := exec_fault j s
    obtain ⟨u, hu, -⟩ := exec_fault i t
    obtain ⟨t', ht', -⟩ := exec_fault i s
    obtain ⟨u', hu', -⟩ := exec_fault j t'
    have hji := hcomm j (.head _) i (.tail _ (.head _)) s
    simp only [execAll, ht, hu, ht', hu', Host.Outcome.next.injEq] at hji ⊢
    rw [hji]
  | trans hleft _ ihleft ihright =>
    exact (ihleft hcomm s).trans
      (ihright (fun a ha b hb => hcomm a (hleft.mem_iff.mpr ha) b (hleft.mem_iff.mpr hb)) s)

/-- Operations that drive the output ports commute where their changes to the ports do. -/
theorem opsCommute_of_drive {i j : Instr} {g h : Outputs → Outputs} (hi : ∀ s, exec i s = .next (s.drive g))
    (hj : ∀ s, exec j s = .next (s.drive h)) (hgh : ∀ o, h (g o) = g (h o)) : OpsCommute i j := by
  intro s
  simp only [execAll, hi, hj, State.drive_drive]
  rw [show h ∘ g = g ∘ h from funext hgh]

/-- The three sub-operations drive three different ports, so they commute. -/
theorem subOperations_pairwise_commute (f : Frame) : [Instr.classify f, .extractInt f, .extractTc f].Pairwise OpsCommute := by
  have hclassifyInt : OpsCommute (.classify f) (.extractInt f) :=
    opsCommute_of_drive (exec_classify f) (exec_extractInt f) fun _ => rfl
  have hclassifyTc : OpsCommute (.classify f) (.extractTc f) :=
    opsCommute_of_drive (exec_classify f) (exec_extractTc f) fun _ => rfl
  have hintTc : OpsCommute (.extractInt f) (.extractTc f) :=
    opsCommute_of_drive (exec_extractInt f) (exec_extractTc f) fun _ => rfl
  simp [hclassifyInt, hclassifyTc, hintTc]

/-- In any order the sub-operations drive their three ports. -/
theorem execAll_subOperations {f : Frame} {l : List Instr} (hperm : l.Perm [.classify f, .extractInt f, .extractTc f])
    (s : State) : execAll l s =
      .next (((s.driveFault (classify f).code).driveIntRaw (extractInt f.word)).driveTcRaw (extractTc f.word)) := by
  have hsymm : Std.Symm OpsCommute := ⟨fun _ _ h s => (h s).symm⟩
  have hcomm := (subOperations_pairwise_commute f).forall_of_forall fun _ _ _ => rfl
  exact (execAll_perm hperm.symm (fun _ hi _ hj => hcomm hi hj) s).symm

/-- Settles O44: each word of R150 is a function of its own bits, and DECODE is what `execAll_subOperations` gives, with
`timestamp` driven after it. -/
theorem decodeIsItsPartsInAnyOrder : Obligations.DecodeIsItsPartsInAnyOrder := by
  unfold Obligations.DecodeIsItsPartsInAnyOrder
  constructor
  · intro w w' s s'
    refine ⟨_, _, exec_decode _ s, exec_decode _ s', ?_⟩
    rw [State.drive_ports, State.drive_ports, Ports.withOut_out, Ports.withOut_out, word_frameOfWord, word_frameOfWord]
    refine ⟨fun h => ?_, fun h => ?_, fun h => ?_⟩
    · exact classify_code_congr (h 15 (by decide)) (h 31 (by decide)) (h 30 (by decide)) (h 29 (by decide))
    · exact extractInt_congr fun i hlo hhi => h i ⟨hlo, hhi⟩
    · exact extractTc_congr fun i hlo hhi => h i ⟨hlo, hhi⟩
  · intro f s l hperm
    exact ⟨_, _, execAll_subOperations hperm s, rfl, State.drive_ports _ _, fun k hk => (OnlyOutputs.drive _ _).others k hk,
      rfl, rfl, rfl, rfl⟩

/-! ## The step on one frame -/

/-- A step on the frame w presented with `now` records and shows DECODE of them, whatever the state was. -/
theorem step_presenting (s : State) (u : Nat) (w : Word) (now : Timestamp) (rest : List Stimulus) :
    ∃ t, step (s.presenting u w now rest) = .next t ∧
      t.events = s.events ++ [{ unit := u, frame := w, now := now, reading := decodeReading w now }] ∧
      t.portsOf u = { frame := w, now := now, out := decodeReading w now } := by
  obtain ⟨v, -, hstep, hd⟩ := step_of_frame (s := s.presenting u w now rest) rfl (frameWord_bytesOfWord w)
  exact ⟨_, hstep, hd.events, hd.ports⟩

/-- Settles O14: the step records DECODE's Reading, whose temperatures are in their ranges as those of any outputs are. -/
theorem everyFrameGivesExactlyOneReading : Obligations.EveryFrameGivesExactlyOneReading := by
  unfold Obligations.EveryFrameGivesExactlyOneReading
  intro s u w now rest
  obtain ⟨t, hstep, hevents, -⟩ := step_presenting s u w now rest
  obtain ⟨-, -, -, hintLo, hintHi, -, -, -, htcLo, htcHi⟩ := temperaturesAreExactAndInRange (decodeReading w now)
  exact ⟨t, _, _, hstep, hevents, readingOf_eq_some (classify (frameOfWord w)) rfl, hintLo, hintHi, htcLo, htcHi⟩

/-- Settles O15: the event and the ports `step_presenting` gives do not name the state. -/
theorem readingDependsOnItsInputsAlone : Obligations.ReadingDependsOnItsInputsAlone := by
  unfold Obligations.ReadingDependsOnItsInputsAlone
  intro s s' u w now rest rest'
  obtain ⟨t, hstep, hevents, hports⟩ := step_presenting s u w now rest
  obtain ⟨t', hstep', hevents', hports'⟩ := step_presenting s' u w now rest'
  exact ⟨t, t', _, hstep, hstep', hevents, hevents', hports.trans hports'.symm⟩

end Sys2Proof.Machine
end

section
/-! R170: every operation answers a next state, and its frame is the one DECODE, a drive and a case operation share. -/

namespace Sys2Proof.Machine

/-- Settles O48, by cases on the operation: DECODE is `execDecode_next`, CLASSIFY and the extractors are one drive each, and a case
operation is a drive or nothing. -/
theorem noOperationStops : Obligations.NoOperationStops := by
  unfold Obligations.NoOperationStops
  intro i s
  cases i with
  | decode f =>
    obtain ⟨t, ht, -, honly⟩ := execDecode_next f s
    exact ⟨t, ht, honly⟩
  | classify f => exact ⟨_, exec_classify f s, .drive _ _⟩
  | classifyNone f => exact ⟨_, exec_caseOp .none f s, .driveCase _ _ _⟩
  | classifyOc f => exact ⟨_, exec_caseOp .openCircuit f s, .driveCase _ _ _⟩
  | classifyScg f => exact ⟨_, exec_caseOp .shortToGround f s, .driveCase _ _ _⟩
  | classifyScv f => exact ⟨_, exec_caseOp .shortToPower f s, .driveCase _ _ _⟩
  | classifyUnknown f => exact ⟨_, exec_caseOp .unknown f s, .driveCase _ _ _⟩
  | extractInt f => exact ⟨_, exec_extractInt f s, .drive _ _⟩
  | extractTc f => exact ⟨_, exec_extractTc f s, .drive _ _⟩

end Sys2Proof.Machine
end

section
/-! R180: a run seen at one unit. Its events there are those of the stimuli presented there, and its ports there end as the last of
these events shows them, so nothing presented to another unit matters. -/

namespace Sys2Proof.Machine

theorem decodeEvent_unit (x : Stimulus) (w : Word) (n : Nat) : (decodeEvent x w n).unit = x.unit := rfl

/-- The ports of a unit right after the event e in it: e's inputs and its Reading (`FrameDecoded.portsOf`). -/
def Event.ports (e : Event) : Ports where
  frame := e.frame
  now := e.now
  out := e.reading

/-- The ports of a unit that showed p before the events es, all in that unit (`run_portsOf`). -/
def portsAfter (p : Ports) (es : List Event) : Ports := es.foldl (fun _ e => e.ports) p

theorem portsAfter_cons (p : Ports) (e : Event) (es : List Event) : portsAfter p (e :: es) = portsAfter e.ports es := rfl

/-- After a decode event the unit it happened in shows it, and every other unit is as it was. -/
theorem FrameDecoded.portsOf {s t : State} {x : Stimulus} {rest : List Stimulus} {w : Word} (h : FrameDecoded s t x rest w)
    (k : Nat) : t.portsOf k = if x.unit = k then (decodeEvent x w s.freeCount).ports else s.portsOf k := by
  by_cases hk : x.unit = k
  · rw [if_pos hk, ← hk]
    exact h.ports
  · rw [if_neg hk, h.others k (Ne.symm hk)]

/-- A run over a well-formed program leaves at unit k what the program's events at unit k show. -/
theorem run_portsOf {s t : State} {l : List Stimulus} (hp : s.pending = l) (h : ∀ x ∈ l, x.wellFormed = true)
    (hrun : Host.Core.run Sys2Proof.core l.length s = .next t) (k : Nat) :
    t.portsOf k = portsAfter (s.portsOf k) ((eventsOf l s.freeCount).filter fun e => e.unit == k) := by
  induction l generalizing s with
  | nil =>
    obtain rfl := Host.Outcome.next.inj hrun
    rfl
  | cons x rest ih =>
    obtain ⟨hx, hrest⟩ := List.forall_mem_cons.mp h
    obtain ⟨w, hw⟩ := frameWord_of_wellFormed hx
    obtain ⟨u, -, hstep, hd⟩ := step_of_frame hp hw
    rw [ih hd.pending hrest ((core_run_succ hstep _).symm.trans hrun), hd.portsOf, hd.freeCount, eventsOf_cons hw,
      List.filter_cons, decodeEvent_unit]
    by_cases hk : x.unit = k
    · rw [if_pos hk, if_pos (beq_iff_eq.mpr hk), portsAfter_cons]
    · rw [if_neg hk, if_neg (mt beq_iff_eq.mp hk)]

/-- A stimulus's event is in the unit the stimulus is presented to. -/
theorem eventAt_filter_unit (n k : Nat) (x : Stimulus) :
    (eventAt n x).filter (fun e => e.unit == k) = if x.unit == k then eventAt n x else none := by
  unfold eventAt
  cases frameWord x.bytes with
  | error e => exact (ite_self none).symm
  | ok w => exact Option.filter_some

/-- Where every timestamp is given, the events at unit k are the events of the stimuli presented to unit k. -/
theorem eventsOf_filter_unit {l : List Stimulus} (h : ∀ x ∈ l, x.wellFormed = true ∧ x.now.isSome = true) (n k : Nat) :
    (eventsOf l n).filter (fun e => e.unit == k) = (l.filter fun x => x.unit == k).filterMap (eventAt n) := by
  simp only [eventsOf_eq_filterMap h, List.filter_filterMap, List.filterMap_filter, eventAt_filter_unit]

/-- Settles O21: at each unit the events are a function of the stimuli presented there, the same in both programs, and the ports
are a function of these events. -/
theorem interleavingKeepsEachInstance : Obligations.InterleavingKeepsEachInstance := by
  unfold Obligations.InterleavingKeepsEachInstance
  intro s l l' h hunits
  obtain ⟨hl, hl'⟩ := List.forall_mem_append.mp h
  have hwf : ∀ x ∈ l, x.wellFormed = true := fun x hx => (hl x hx).1
  have hwf' : ∀ x ∈ l', x.wellFormed = true := fun x hx => (hl' x hx).1
  obtain ⟨t, hrun, -, hte⟩ := run_pending (s := { s with pending := l }) rfl hwf
  obtain ⟨t', hrun', -, hte'⟩ := run_pending (s := { s with pending := l' }) rfl hwf'
  refine ⟨t, t', _, _, hrun, hrun', hte, hte', fun k => ?_⟩
  have hevents : (eventsOf l s.freeCount).filter (fun e => e.unit == k) =
      (eventsOf l' s.freeCount).filter fun e => e.unit == k := by
    rw [eventsOf_filter_unit hl, eventsOf_filter_unit hl', hunits k]
  refine ⟨hevents, ?_⟩
  rw [run_portsOf rfl hwf hrun k, run_portsOf rfl hwf' hrun' k]
  exact congrArg (portsAfter (s.portsOf k)) hevents

end Sys2Proof.Machine
end

section
/-! Before the host presents anything: the output ports are already the function of the inputs. -/

namespace Sys2Proof.Machine

/-- Settles O1: the ports are settled at reset, so the outputs are DECODE of the inputs, each port by its formula. -/
theorem resetOutputsAreTheFunctionOfTheInputs : Obligations.ResetOutputsAreTheFunctionOfTheInputs := by
  unfold Obligations.ResetOutputsAreTheFunctionOfTheInputs
  refine ⟨rfl, rfl, fun k => ⟨_, _, rfl, rfl, ?_⟩⟩
  rw [reset_settled k]
  exact ⟨extractInt_toInt _, extractTc_toInt _, classify_code _, rfl⟩

end Sys2Proof.Machine
end

section
/-! Single cases: sample frames of the test vectors, and the model's own choices off an operation's domain (log 2, log 21). -/

namespace Sys2Proof.Machine

/-- The bytes of a frame laid out as R71 does decode to that frame's fields. -/
theorem decode_of_bytesOfWord_word {f : Frame} {bs : List Byte} (h : bytesOfWord f.word = bs) : decode bs = .ok (.decode f) := by
  rw [← h, decode_bytesOfWord, decodeWord, frameOfWord_word]

/-- Settles O10: R71's layout of each frame's fields gives the test vector's four bytes. -/
theorem sampleFramesDecode : Obligations.SampleFramesDecode :=
  ⟨decode_of_bytesOfWord_word (by decide), decode_of_bytesOfWord_word (by decide), decode_of_bytesOfWord_word (by decide),
    decode_of_bytesOfWord_word (by decide)⟩

/-- A case operation whose `if` fails drives nothing (log 2). -/
theorem exec_caseOp_of_wellFormed_eq_false {k : FaultKind} {f : Frame} (h : (k.caseOp f).wellFormed = false) (s : State) :
    exec (k.caseOp f) s = .next s := by
  rw [exec_caseOp, h]
  rfl

/-- Settles O29: `exec_caseOp_of_wellFormed_eq_false` at each FaultKind. -/
theorem caseOffItsFrameDrivesNothing : Obligations.CaseOffItsFrameDrivesNothing :=
  fun _ s =>
    ⟨(exec_caseOp_of_wellFormed_eq_false (k := .none) · s),
      (exec_caseOp_of_wellFormed_eq_false (k := .openCircuit) · s),
      (exec_caseOp_of_wellFormed_eq_false (k := .shortToGround) · s),
      (exec_caseOp_of_wellFormed_eq_false (k := .shortToPower) · s),
      (exec_caseOp_of_wellFormed_eq_false (k := .unknown) · s)⟩

/-- Settles O36: EXTRACT answers only where `extractDefined` holds, which is R121's conditions. -/
theorem extractRefusesOtherParameters : Obligations.ExtractRefusesOtherParameters := by
  unfold Obligations.ExtractRefusesOtherParameters
  refine ⟨fun p n s res h => ?_, by decide, by decide⟩
  rw [extractGeneric, if_neg (mt (extractDefined_eq_true_iff n s).mp h)]

end Sys2Proof.Machine
end
